-- ==== Sys2Proof/Word.lean ====
section
/-! DEFINITION. The word types of the block: the integer widths u8, u16 and u32 of R8, the opaque names of NUM values and of
side-channel states, and the two fields of a command word (R58). -/

namespace Sys2Proof

/-- `u8` (R8): one byte of a queue, an `id`, a `length`, an operand `S`. -/
abbrev Byte := BitVec 8

/-- `u16` (R8): a token, a CRC, a command word. -/
abbrev Half := BitVec 16

/-- `u32` (R8): a counter, `WDG_AGE`, a u32 readback value, the type bitmask. -/
abbrev Word := BitVec 32

/-- The NAME of one value of the numeric domain `NUM` (R7, R10).
`NUM` is an OPEN parameter, so a register holds a name and nothing else: what the names mean (how they add, compare, round,
which of them are NaN) is fixed by a `NumDomain` of `Config.lean` and by nothing here.
In the reference instantiation, binary32, the code is the 32-bit pattern (R151).
Assumption 2, DESIGN CHOICE: any countable domain is covered. -/
structure NUM where
  code : Nat
deriving DecidableEq, Repr, Inhabited

/-- `+0`, the NUM zero (R29): the code 0 in every domain (in binary32 the pattern `0x00000000`). -/
def NUM.zero : NUM := ⟨0⟩

/-- The type `SideState` of the side-channel flag set (R7, R20): a parameter of the spec, held as the name of one of its values.
Bit `j` of `flags` can be read as flag `j`; no rule of the block reads it. Assumption 3, DESIGN CHOICE. -/
structure SideState where
  flags : Nat
deriving DecidableEq, Repr, Inhabited

/-- The opcode field `OP = word[7:0]` of a command word (R58). -/
def opField (word : Half) : Byte := word.extractLsb' 0 8

/-- The operand field `S = word[15:8]` of a command word (R58). -/
def sField (word : Half) : Byte := word.extractLsb' 8 8

/-- The command word with opcode `op` and operand `s` (R58). -/
def commandWord (op s : Byte) : Half := s ++ op

end Sys2Proof
end

