-- ==== Sys2Proof/Config.lean ====
section
/-! DEFINITION. What is fixed for a run and is not state (R6, R7, R25): the normative literals of the source, the OPEN parameters,
the conditions under which a parameter set is admitted (R36, R71, R111, and R7, R67, R77), and the admitted configurations a block can
have, which are opaque: a theorem about the machine holds whatever the admitted configuration is. -/

namespace Sys2Proof

/-! ## The named constants (R7) -/

/-- `MSG_LEN_MIN` = 6 bytes, the smallest frame (R7, R56). -/
def MSG_LEN_MIN : Nat := 6

/-- `MSG_LEN_MAX` = 256 bytes, the largest frame the encoder emits (R7, R56). -/
def MSG_LEN_MAX : Nat := 256

/-- `ERR_TSK_TMS` = 100 milliseconds of staleness (R7, R138). -/
def ERR_TSK_TMS : Nat := 100

/-- `HEAD_LEN` = 4 bytes (R7). -/
def HEAD_LEN : Nat := 4

/-- `CRC_LEN` = 2 bytes (R7). -/
def CRC_LEN : Nat := 2

/-! ## Message kinds (R64) -/

/-- A kind index `k` in 0..20 (`N_KINDS` = 21, R7, R64, conflict C2). -/
abbrev Kind := Fin 21

/-- The 21 kind indexes in ascending order, the order of R103. -/
def kinds : List Kind := List.finRange 21

/-- The names of R64; the position in the list is the kind index. -/
def kindNames : List String :=
  ["IMU", "MAG", "UWB", "ODO", "PTZ", "VRC", "VHC", "AHRS", "CBUS", "VDBUS", "ZGYRO", "MOTOR", "STATU", "SUBSC",
   "CALIB", "PID_CALIB", "IMU_CALIB", "MAG_CALIB", "VEL_CALIB", "MEC_CALIB", "POS_CALIB"]

abbrev Kind.PTZ : Kind := 4
abbrev Kind.ODO : Kind := 3
abbrev Kind.VRC : Kind := 5
abbrev Kind.VHC : Kind := 6
abbrev Kind.ZGYRO : Kind := 10
abbrev Kind.SUBSC : Kind := 13
abbrev Kind.CALIB : Kind := 14

/-! ## PID instances (R110) -/

/-- A PID instance index `i` in 0..10 (`N_PID` = 11, R7, R110). -/
abbrev PidIx := Fin 11

/-- `W0`..`W3`, the wheel velocity loops (R110). -/
abbrev PidIx.wheel (j : Fin 4) : PidIx := ⟨j.val, by omega⟩
/-- `CX`, `CY`, `CZ`, the chassis body-frame loops (R110). -/
abbrev PidIx.chassis (j : Fin 3) : PidIx := ⟨4 + j.val, by omega⟩
/-- `GP_PAN`, `GP_TILT`, the gimbal position loops (R110). -/
abbrev PidIx.gimbalPos (a : Fin 2) : PidIx := ⟨7 + a.val, by omega⟩
/-- `GV_PAN`, `GV_TILT`, the gimbal rate loops (R110). -/
abbrev PidIx.gimbalRate (a : Fin 2) : PidIx := ⟨9 + a.val, by omega⟩

/-- `dmode_i` (R111): derivative on error or on measurement. -/
inductive DMode where
  | err
  | meas
deriving DecidableEq, Repr, Inhabited

/-- One row of `CFG` (R111). -/
structure PidCfg where
  kp : NUM
  ki : NUM
  kd : NUM
  ilim : NUM
  olim : NUM
  dmode : DMode
deriving DecidableEq, Repr, Inhabited

/-! ## The registry and the body layouts -/

/-- One registry row `(id_k, len_k, token_k, scale_k)` (R70). -/
structure RegRow where
  id : Byte
  len : Byte
  token : Half
  scale : Option NUM
deriving DecidableEq, Repr, Inhabited

/-- How the bytes of one body field are read. The spec leaves `BODY_LAYOUT` open and names no set of field types: these four are the model's
(assumption 14, DESIGN CHOICE), and no rule of the block reads them. -/
inductive FieldType where
  | unsigned
  | signed
  | real
  | raw
deriving DecidableEq, Repr, Inhabited

/-- One field of `BODY_LAYOUT(k)` (R7): its width in bytes, its type and its byte order (R40). That a field is these three is the model's
(assumption 14, DESIGN CHOICE); the block reads only the widths, of which R71 (d) asks the sum. -/
structure BodyField where
  bytes : Nat
  type : FieldType
  littleEndian : Bool
deriving DecidableEq, Repr, Inhabited

/-! ## Control-state groups (R21) -/

/-- The six control-state register groups (R21). -/
inductive Group where
  | cref
  | cmeas
  | wmeas
  | gref
  | gpos
  | grate
deriving DecidableEq, Repr, Inhabited

/-- One group write `(G, v)` of `ROUTE` (R108). The vector has the size of the group BY TYPE, so a `ROUTE` that breaks R109
cannot be written down (assumption 5, DESIGN CHOICE). -/
inductive GroupWrite where
  | cref (v : Vector NUM 3)
  | cmeas (v : Vector NUM 3)
  | wmeas (v : Vector NUM 4)
  | gref (v : Vector NUM 2)
  | gpos (v : Vector NUM 2)
  | grate (v : Vector NUM 2)
deriving DecidableEq, Repr, Inhabited

/-! ## The numeric domain (R7, R10) -/

/-- A numeric domain `NUM`: its own `+`, `-`, `*`, `/`, unary `-` and comparison (R10), its NaN and finiteness tests (R111, R119)
and its decimal literals (R77), with the few facts about order that R112 and R120 take for granted of any domain
(assumption 4, DEDUCED). -/
structure NumDomain where
  add : NUM → NUM → NUM
  sub : NUM → NUM → NUM
  mul : NUM → NUM → NUM
  div : NUM → NUM → NUM
  neg : NUM → NUM
  /-- The comparison `x > y`. -/
  gt : NUM → NUM → Bool
  isNaN : NUM → Bool
  isFinite : NUM → Bool
  /-- `decimal m e` is the domain's value for the literal `m * 10^e`. -/
  decimal : Int → Int → NUM
  zero_finite : isFinite NUM.zero = true
  finite_notNaN : ∀ x, isFinite x = true → isNaN x = false
  neg_finite : ∀ x, isFinite x = true → isFinite (neg x) = true
  gt_irrefl : ∀ x, gt x x = false
  /-- For a limit `L >= 0`: `-L` is not above 0. -/
  neg_le_zero : ∀ x, isFinite x = true → gt NUM.zero x = false → gt (neg x) NUM.zero = false
  /-- For a limit `L >= 0`: `-L` is not above `L`. -/
  neg_le_self : ∀ x, isFinite x = true → gt NUM.zero x = false → gt (neg x) x = false

/-- The comparison `x < y`: `y > x` (R10). -/
def NumDomain.lt (N : NumDomain) (x y : NUM) : Bool := N.gt y x

/-- `x <= y` for the claims of R120: neither is NaN and `x > y` does not hold. -/
def NumDomain.le (N : NumDomain) (x y : NUM) : Bool := !N.isNaN x && !N.isNaN y && !N.gt x y

/-- `-L <= x <= L` (R120). -/
def NumDomain.within (N : NumDomain) (x limit : NUM) : Bool := N.le (N.neg limit) x && N.le x limit

/-! ## The parameters (R7) -/

/-- The OPEN parameters of R7, before they are admitted. -/
structure Params where
  /-- `NUM`. -/
  num : NumDomain
  /-- `REGISTRY`: 21 rows by type (R71 (a)). -/
  registry : Kind → RegRow
  /-- `BODY_LAYOUT`. -/
  bodyLayout : Kind → List BodyField
  /-- `CRC16`, pure and total (R80). -/
  crc16 : List Byte → Half
  /-- `RXQ_CAP`, in bytes. -/
  rxqCap : Nat
  /-- `TXQ_CAP`, in bytes. -/
  txqCap : Nat
  /-- `CTL_PERIOD_MS`. -/
  ctlPeriodMs : Nat
  /-- `DT`. -/
  dt : NUM
  /-- `CFG` (R111). -/
  cfg : PidIx → PidCfg
  /-- `MEC_M`: 4 rows, one per wheel, and 3 columns x, y, z (R121). -/
  mecM : Fin 4 → Fin 3 → NUM
  /-- `ROUTE` (R108). -/
  route : Kind → List Byte → List GroupWrite
  /-- `SIDE_INIT` (R20). -/
  sideInit : SideState
  /-- `SIDE` (R104). -/
  side : Kind → List Byte → SideState → SideState
  /-- `MSG_TYPE_IDX` (R67). -/
  msgTypeIdx : Kind → Fin 32

/-! ## Admission (R71, R111, R36, R7, R67, R77) -/

/-- R71 (b): the 21 ids are pairwise distinct. -/
def Params.idsDistinct (P : Params) : Bool := decide (∀ i j : Kind, (P.registry i).id = (P.registry j).id → i = j)

/-- R71 (c): the 21 tokens are pairwise distinct. -/
def Params.tokensDistinct (P : Params) : Bool := decide (∀ i j : Kind, (P.registry i).token = (P.registry j).token → i = j)

/-- The size in bytes that a layout describes. -/
def layoutBytes (l : List BodyField) : Nat := (l.map BodyField.bytes).sum

/-- R71 (d): `BODY_LAYOUT(k)` describes exactly `len_k` bytes. -/
def Params.layoutsFit (P : Params) : Bool := decide (∀ k : Kind, layoutBytes (P.bodyLayout k) = (P.registry k).len.toNat)

/-- R71 (e) for one row: the scale is none or a finite non-zero NUM. -/
def scaleAdmitted (N : NumDomain) : Option NUM → Bool
  | none => true
  | some x => N.isFinite x && (N.gt x NUM.zero || N.gt NUM.zero x)

/-- R71 (e). -/
def Params.scalesAdmitted (P : Params) : Bool := decide (∀ k : Kind, scaleAdmitted P.num (P.registry k).scale = true)

/-- R77: the scale of `ODO` is 1e3 and that of `ZGYRO` is 1e-2. -/
def Params.knownScales (P : Params) : Bool :=
  (P.registry Kind.ODO).scale == some (P.num.decimal 1 3) && (P.registry Kind.ZGYRO).scale == some (P.num.decimal 1 (-2))

/-- R111 for one limit: finite and `>= 0`. -/
def limitAdmitted (N : NumDomain) (limit : NUM) : Bool := N.isFinite limit && !N.gt NUM.zero limit

/-- R111 for one instance. -/
def pidCfgAdmitted (N : NumDomain) (c : PidCfg) : Bool :=
  N.isFinite c.kp && N.isFinite c.ki && N.isFinite c.kd && limitAdmitted N c.ilim && limitAdmitted N c.olim

/-- R111. -/
def Params.cfgAdmitted (P : Params) : Bool := decide (∀ i : PidIx, pidCfgAdmitted P.num (P.cfg i) = true)

/-- R36: each queue can hold a frame of `MSG_LEN_MAX` bytes. -/
def Params.queuesAdmitted (P : Params) : Bool := decide (MSG_LEN_MAX ≤ P.rxqCap) && decide (MSG_LEN_MAX ≤ P.txqCap)

/-- R7: `CTL_PERIOD_MS` is a positive integer. -/
def Params.periodAdmitted (P : Params) : Bool := decide (0 < P.ctlPeriodMs)

/-- R67: `MSG_TYPE_IDX(VRC) = MSG_TYPE_IDX(VHC) = 5`. -/
def Params.typeIdxAdmitted (P : Params) : Bool := P.msgTypeIdx Kind.VRC == 5 && P.msgTypeIdx Kind.VHC == 5

/-- The configuration is admitted (R71, R111, R109 by type, R36, and the values R7, R67 and R77 fix; assumption 5, DESIGN CHOICE). -/
def Params.admitted (P : Params) : Bool :=
  P.idsDistinct && P.tokensDistinct && P.layoutsFit && P.scalesAdmitted && P.knownScales && P.cfgAdmitted &&
    P.queuesAdmitted && P.periodAdmitted && P.typeIdxAdmitted

/-! ## The admitted configuration -/

/-- A domain with the single finite value 0 and one literal: it is used only to show that an admitted configuration exists. -/
def witnessDomain : NumDomain where
  add _ _ := NUM.zero
  sub _ _ := NUM.zero
  mul _ _ := NUM.zero
  div _ _ := NUM.zero
  neg _ := NUM.zero
  gt x y := decide (y.code < x.code)
  isNaN _ := false
  isFinite _ := true
  decimal _ _ := ⟨1⟩
  zero_finite := rfl
  finite_notNaN _ _ := rfl
  neg_finite _ _ := rfl
  gt_irrefl x := by simp
  neg_le_zero x _ _ := by simp [NUM.zero]
  neg_le_self x _ _ := by simp [NUM.zero]

/-- An admitted parameter set: it is used only to show that an admitted configuration exists. -/
def witnessParams : Params where
  num := witnessDomain
  registry k :=
    { id := BitVec.ofNat 8 k.val, len := 0, token := BitVec.ofNat 16 k.val,
      scale := if k = Kind.ODO ∨ k = Kind.ZGYRO then some ⟨1⟩ else none }
  bodyLayout _ := []
  crc16 _ := 0
  rxqCap := 256
  txqCap := 256
  ctlPeriodMs := 1
  dt := NUM.zero
  cfg _ := ⟨NUM.zero, NUM.zero, NUM.zero, NUM.zero, NUM.zero, .err⟩
  mecM _ _ := NUM.zero
  route _ _ := []
  sideInit := ⟨0⟩
  side _ _ x := x
  msgTypeIdx _ := 5

/-- A configuration: parameters together with the proof that they are admitted (R192 1.).
The default values only let Lean see that the type has a member. -/
structure Config where
  params : Params := witnessParams
  admitted : params.admitted = true := by decide
deriving Inhabited

/-- Which block a state belongs to: the block with the test configuration of spec/95_test_vectors.md, the one with a variant of it whose
`ROUTE` reaches every group, or any other.
Configuration is not state in the spec (R6): a state carries this tag only so that one `step` serves blocks of every configuration,
and no step changes it (assumption 1, DESIGN CHOICE). -/
inductive ConfigId where
  | reference
  | variant
  | custom (n : Nat)
deriving DecidableEq, Repr

/-- The configurations of the blocks other than the two test ones: each is admitted and otherwise unknown (R6, R7, R190).
The constant has no body, so no theorem can depend on a value of it (assumption 1, DESIGN CHOICE). -/
opaque customConfig : Nat → Config

/-- What `RXQ_LEN` and `TXQ_LEN` read as when the queue holds 2^32 bytes or more, which a u32 cannot hold and for which the spec
states no value: a FREE VALUE, a function of the length so that R43's repeated reads agree (assumption 7, DESIGN CHOICE). -/
opaque freeQueueLen : Nat → Word

end Sys2Proof
end

