-- ==== Sys2Proof/Syntax.lean ====
section
/-! DEFINITION. The commands of the block (R60), one constructor per row of spec/opcode_table.json, and the named registers that
`RD_REG` can select (R151). -/

namespace Sys2Proof

/-- A command with its operands. `s`, `id` and `sel` are the raw operand field `S` (R59), so that the out-of-range values, to which
the command rules give the answer `ILLEGAL_COMMAND`, can be written down; `WellFormed.lean` says which are legal. -/
inductive Instr where
  /-- `NOP` (R153). -/
  | nop
  /-- `REG_BY_ID id` (R74). -/
  | regById (id : Byte)
  /-- `REG_BY_KIND k` (R75). -/
  | regByKind (s : Byte)
  /-- `MSG_PUSH k, B` (R82). -/
  | msgPush (s : Byte) (body : List Byte)
  /-- `MSG_POP` (R90). -/
  | msgPop
  /-- `CTL_INIT` (R131). -/
  | ctlInit
  /-- `CTL_PROC` (R132). -/
  | ctlProc
  /-- `RD_REG sel` (R150). -/
  | rdReg (sel : Byte)
deriving DecidableEq, Repr

/-- The eight diagnostic counters (R17). -/
inductive Counter where
  | popOk
  | unknownId
  | schema
  | checksum
  | pushOk
  | lenOverflow
  | noSpace
  | rxDrop
deriving DecidableEq, Repr

/-- The current or the previous vector of a group (R21). -/
inductive Slot where
  | cur
  | prev
deriving DecidableEq, Repr

/-- The four registers of a PID instance (R24). -/
inductive PidField where
  | iacc
  | perr
  | pmeas
  | out
deriving DecidableEq, Repr

/-- A register named by a legal selector (R151). -/
inductive RegSel where
  | sched
  | wdgAge
  | counter (c : Counter)
  | rxqLen
  | txqLen
  | mboxFresh
  | cref (slot : Slot) (j : Fin 3)
  | cmeas (slot : Slot) (j : Fin 3)
  | wmeas (slot : Slot) (j : Fin 4)
  | gref (slot : Slot) (a : Fin 2)
  | gpos (slot : Slot) (a : Fin 2)
  | grate (slot : Slot) (a : Fin 2)
  | cmdW (j : Fin 4)
  | cmdG (a : Fin 2)
  | pid (i : PidIx) (f : PidField)
deriving DecidableEq, Repr

end Sys2Proof
end

