-- ==== Sys2Proof/WellFormed.lean ====
section
/-! DEFINITION. Which commands are legal: the operand conditions of R61 (c), (d) and (e). Conditions (a), (b) and (f) are about
words that no constructor of `Instr` stands for; `Decode.lean` rejects them. -/

namespace Sys2Proof

/-- R61 (c): `S` is a kind index, 0..20. -/
def kindInRange (s : Byte) : Bool := decide (s.toNat ≤ 20)

/-- R61 (d): `S` is a selector of R151; the ranges the rule leaves out (`0x0D`..`0x0F`, `0x36`..`0x3F`, `0x6C`..`0xFF`) are illegal. -/
def selectorListed (s : Byte) : Bool :=
  decide (s.toNat ≤ 0x0C) || (decide (0x10 ≤ s.toNat) && decide (s.toNat ≤ 0x35)) ||
    (decide (0x40 ≤ s.toNat) && decide (s.toNat ≤ 0x6B))

/-- R61 (e): the data operand has `len_S` bytes. -/
def bodyFits (P : Params) (s : Byte) (body : List Byte) : Bool :=
  if h : s.toNat < 21 then body.length == (P.registry ⟨s.toNat, h⟩).len.toNat else false

/-- The command is legal under the configuration `P` (R61). -/
def Instr.wellFormed (P : Params) : Instr → Bool
  | .nop => true
  | .regById _ => true
  | .regByKind s => kindInRange s
  | .msgPush s body => kindInRange s && bodyFits P s body
  | .msgPop => true
  | .ctlInit => true
  | .ctlProc => true
  | .rdReg sel => selectorListed sel

/-- The part of legality that the command word alone decides, whatever the configuration (R61 (c), (d)). -/
def Instr.wordLegal : Instr → Bool
  | .nop => true
  | .regById _ => true
  | .regByKind s => kindInRange s
  | .msgPush s _ => kindInRange s
  | .msgPop => true
  | .ctlInit => true
  | .ctlProc => true
  | .rdReg sel => selectorListed sel

end Sys2Proof
end

