-- ==== Sys2Proof/Decode.lean ====
section
/-! DEFINITION. The command port's decoder (R58 to R62), total on every 16-bit word and every data operand and rejecting by name, and
the encoder written from the same table (R60). -/

namespace Sys2Proof

/-- Why a command word is illegal (R61). -/
inductive DecodeError where
  /-- R61 (a): `OP` is none of the eight opcodes. -/
  | reservedOpcode (op : Byte)
  /-- R61 (b): `S` is not 0 for an opcode that takes no operand. -/
  | operandNotZero (op s : Byte)
  /-- R61 (c): `S > 20` for `REG_BY_KIND` or `MSG_PUSH`. -/
  | kindOutOfRange (op s : Byte)
  /-- R61 (d): `S` is no selector of R151. -/
  | selectorUnlisted (s : Byte)
  /-- R61 (f): a data operand with an opcode other than `MSG_PUSH`. -/
  | dataNotTaken (op : Byte)
deriving DecidableEq, Repr

/-- The opcodes of R60. -/
def OP_NOP : Byte := 0x00
def OP_REG_BY_ID : Byte := 0x01
def OP_REG_BY_KIND : Byte := 0x02
def OP_MSG_PUSH : Byte := 0x10
def OP_MSG_POP : Byte := 0x11
def OP_CTL_INIT : Byte := 0x20
def OP_CTL_PROC : Byte := 0x21
def OP_RD_REG : Byte := 0x30

/-- A command that takes no data operand (R61 (f); for `REG_BY_ID` assumption 10, DEDUCED). -/
def takesNoData (op : Byte) (data : List Byte) (i : Instr) : Except DecodeError Instr :=
  if data = [] then .ok i else .error (.dataNotTaken op)

/-- A command that takes neither an operand nor data (R61 (b), (f)). -/
def takesNothing (op s : Byte) (data : List Byte) (i : Instr) : Except DecodeError Instr :=
  if s = 0 then takesNoData op data i else .error (.operandNotZero op s)

/-- The command that a command word and its data operand stand for, or why they are illegal (R60, R61).
The size of `MSG_PUSH`'s data operand depends on the registry and is checked by the command (R61 (e), R82). An empty `data` is no
data operand (assumption 8, DESIGN CHOICE). -/
def decode (word : Half) (data : List Byte) : Except DecodeError Instr :=
  let op := opField word
  let s := sField word
  if op = OP_NOP then takesNothing op s data .nop
  else if op = OP_REG_BY_ID then takesNoData op data (.regById s)
  else if op = OP_REG_BY_KIND then
    if kindInRange s then takesNoData op data (.regByKind s) else .error (.kindOutOfRange op s)
  else if op = OP_MSG_PUSH then
    if kindInRange s then .ok (.msgPush s data) else .error (.kindOutOfRange op s)
  else if op = OP_MSG_POP then takesNothing op s data .msgPop
  else if op = OP_CTL_INIT then takesNothing op s data .ctlInit
  else if op = OP_CTL_PROC then takesNothing op s data .ctlProc
  else if op = OP_RD_REG then
    if selectorListed s then takesNoData op data (.rdReg s) else .error (.selectorUnlisted s)
  else .error (.reservedOpcode op)

/-- The command word and the data operand of a command (R58, R60). -/
def encode : Instr → Half × List Byte
  | .nop => (commandWord OP_NOP 0, [])
  | .regById id => (commandWord OP_REG_BY_ID id, [])
  | .regByKind s => (commandWord OP_REG_BY_KIND s, [])
  | .msgPush s body => (commandWord OP_MSG_PUSH s, body)
  | .msgPop => (commandWord OP_MSG_POP 0, [])
  | .ctlInit => (commandWord OP_CTL_INIT 0, [])
  | .ctlProc => (commandWord OP_CTL_PROC 0, [])
  | .rdReg sel => (commandWord OP_RD_REG sel, [])

/-! ## The opcode map as a table (R60) -/

/-- One row of the opcode map: a word is of the row when its bits under `mask` are `pattern`. -/
structure OpRow where
  mnemonic : String
  pattern : Half
  mask : Half
deriving DecidableEq, Repr

/-- The eight rows of R60 with the match and mask that their bit patterns give. -/
def opRows : List OpRow :=
  [⟨"NOP", 0x0000, 0xFFFF⟩, ⟨"REG_BY_ID", 0x0001, 0x00FF⟩, ⟨"REG_BY_KIND", 0x0002, 0x00FF⟩, ⟨"MSG_PUSH", 0x0010, 0x00FF⟩,
   ⟨"MSG_POP", 0x0011, 0xFFFF⟩, ⟨"CTL_INIT", 0x0020, 0xFFFF⟩, ⟨"CTL_PROC", 0x0021, 0xFFFF⟩, ⟨"RD_REG", 0x0030, 0x00FF⟩]

/-- The word is of the row. -/
def OpRow.matchesWord (r : OpRow) (word : Half) : Bool := word &&& r.mask == r.pattern

/-- The mnemonic of a command (R60, R65). -/
def mnemonicOf : Instr → String
  | .nop => "NOP"
  | .regById _ => "REG_BY_ID"
  | .regByKind _ => "REG_BY_KIND"
  | .msgPush _ _ => "MSG_PUSH"
  | .msgPop => "MSG_POP"
  | .ctlInit => "CTL_INIT"
  | .ctlProc => "CTL_PROC"
  | .rdReg _ => "RD_REG"

/-! ## Table words -/

/-- The data bytes that a table word gives above its 16-bit command word. -/
def tableData (nbits w : Nat) : List Byte :=
  (List.range (nbits / 8 - 2)).map fun j => BitVec.ofNat 8 (w >>> (16 + 8 * j))

/-- The data operand filled with zero bytes up to `len_S` for `MSG_PUSH`; unchanged for the other opcodes (assumption 6, DESIGN CHOICE). -/
def padData (P : Params) (word : Half) (data : List Byte) : List Byte :=
  if opField word = OP_MSG_PUSH then
    if h : (sField word).toNat < 21 then
      data ++ List.replicate ((P.registry ⟨(sField word).toNat, h⟩).len.toNat - data.length) 0
    else data
  else data

/-- The command word and data operand that a table word stands for: every bit above `nbits` is 0. -/
def tableCommand (P : Params) (nbits w : Nat) : Half × List Byte :=
  let word := BitVec.ofNat 16 w
  (word, padData P word (tableData nbits w))

/-- The parameters of the block that `State.reset` belongs to. -/
def resetParams : Params := (customConfig 0).params

/-- What the decoder reads from a table word. -/
def decodeTableWord (nbits w : Nat) : Option Instr :=
  match decode (tableCommand resetParams nbits w).1 (tableCommand resetParams nbits w).2 with
  | .ok i => some i
  | .error _ => none

end Sys2Proof
end

