-- ==== Sys2Proof/Machine/Binary32.lean ====
section
/-! DEFINITION. The reference instantiation of `NUM` (R7, decision D22): IEEE 754 binary32 with rounding to nearest, ties to even. A NUM's code is its
32-bit pattern. The machine does not use this domain (its `NUM` is open); the spec's vectors are worked in it. -/

namespace Sys2Proof.Machine

/-- The pattern of a NUM, as a number below 2^32. -/
def f32Pattern (x : NUM) : Nat := x.code % 2 ^ 32

/-- The sign bit. -/
def f32Negative (x : NUM) : Bool := decide (2 ^ 31 ≤ f32Pattern x)

/-- The pattern without its sign. -/
def f32Mag (x : NUM) : Nat := f32Pattern x % 2 ^ 31

/-- The magnitude of the infinities; a greater one is a NaN. -/
def F32_INF : Nat := 0x7F800000

def f32IsNaN (x : NUM) : Bool := decide (F32_INF < f32Mag x)

def f32IsInf (x : NUM) : Bool := f32Mag x == F32_INF

def f32IsFinite (x : NUM) : Bool := decide (f32Mag x < F32_INF)

/-- The quiet NaN every invalid operation gives (assumption 11, PRESUMED). -/
def f32QNaN : NUM := ⟨0x7FC00000⟩

/-- The NUM with the given sign and magnitude. -/
def f32Make (negative : Bool) (mag : Nat) : NUM := ⟨if negative then 2 ^ 31 + mag else mag⟩

/-- The order of the values: two NUMs that are no NaN compare as their keys do, and both zeros have key 0. -/
def f32Key (x : NUM) : Int := if f32Negative x then -(f32Mag x : Int) else f32Mag x

def f32Gt (x y : NUM) : Bool := !f32IsNaN x && !f32IsNaN y && decide (f32Key y < f32Key x)

def f32Neg (x : NUM) : NUM := ⟨(f32Pattern x + 2 ^ 31) % 2 ^ 32⟩

/-- The significand of a finite NUM, so that its magnitude is `f32Sig x * 2 ^ f32Exp x`. -/
def f32Sig (x : NUM) : Nat := if f32Mag x / 2 ^ 23 = 0 then f32Mag x else 2 ^ 23 + f32Mag x % 2 ^ 23

/-- The exponent of a finite NUM. -/
def f32Exp (x : NUM) : Int := if f32Mag x / 2 ^ 23 = 0 then -149 else (f32Mag x / 2 ^ 23 : Nat) - 150

/-- `num / den` rounded to an integer, to nearest with ties to even. -/
def roundDiv (num den : Nat) : Nat :=
  let q := num / den
  let r := num % den
  if den < 2 * r ∨ (2 * r = den ∧ q % 2 = 1) then q + 1 else q

/-- `num / (den * 2^e)` as a numerator and a denominator. -/
def scaleDown (num den : Nat) (e : Int) : Nat × Nat :=
  if 0 ≤ e then (num, den * 2 ^ e.toNat) else (num * 2 ^ (-e).toNat, den)

/-- The exponent at which `num / den` has a significand of 24 bits, or the least exponent. -/
def f32ExpOf (num den : Nat) : Int :=
  let e : Int := (num.log2 : Int) - den.log2 - 23
  let s := scaleDown num den e
  max (-149) (if s.1 / s.2 < 2 ^ 23 then e - 1 else e)

/-- The NUM nearest to `num / den`, with the given sign; an overflow gives an infinity. -/
def f32Round (negative : Bool) (num den : Nat) : NUM :=
  if num = 0 then f32Make negative 0
  else
    let e := f32ExpOf num den
    let s := scaleDown num den e
    let mag := (e + 149).toNat * 2 ^ 23 + roundDiv s.1 s.2
    f32Make negative (min mag F32_INF)

/-- The NUM nearest to `sig * 2^e`. -/
def f32RoundDyadic (negative : Bool) (sig : Nat) (e : Int) : NUM :=
  if 0 ≤ e then f32Round negative (sig * 2 ^ e.toNat) 1 else f32Round negative sig (2 ^ (-e).toNat)

/-- The significand with its sign, at the exponent `e`, which is at most the NUM's own. -/
def f32SigAt (x : NUM) (e : Int) : Int :=
  let m : Int := (f32Sig x * 2 ^ (f32Exp x - e).toNat : Nat)
  if f32Negative x then -m else m

def f32Add (x y : NUM) : NUM :=
  if f32IsNaN x || f32IsNaN y then f32QNaN
  else if f32IsInf x then (if f32IsInf y && f32Negative x != f32Negative y then f32QNaN else x)
  else if f32IsInf y then y
  else
    let e := min (f32Exp x) (f32Exp y)
    let sum := f32SigAt x e + f32SigAt y e
    if sum = 0 then f32Make (f32Negative x && f32Negative y) 0 else f32RoundDyadic (decide (sum < 0)) sum.natAbs e

def f32Sub (x y : NUM) : NUM := if f32IsNaN y then f32QNaN else f32Add x (f32Neg y)

def f32Mul (x y : NUM) : NUM :=
  let negative := f32Negative x != f32Negative y
  if f32IsNaN x || f32IsNaN y then f32QNaN
  else if f32IsInf x || f32IsInf y then (if f32Mag x = 0 ∨ f32Mag y = 0 then f32QNaN else f32Make negative F32_INF)
  else f32RoundDyadic negative (f32Sig x * f32Sig y) (f32Exp x + f32Exp y)

def f32Div (x y : NUM) : NUM :=
  let negative := f32Negative x != f32Negative y
  if f32IsNaN x || f32IsNaN y then f32QNaN
  else if f32IsInf x then (if f32IsInf y then f32QNaN else f32Make negative F32_INF)
  else if f32IsInf y then f32Make negative 0
  else if f32Mag y = 0 then (if f32Mag x = 0 then f32QNaN else f32Make negative F32_INF)
  else
    let s := scaleDown (f32Sig x) (f32Sig y) (f32Exp y - f32Exp x)
    f32Round negative s.1 s.2

/-- The NUM nearest to `m * 10^e`. -/
def f32Decimal (m e : Int) : NUM :=
  if 0 ≤ e then f32Round (decide (m < 0)) (m.natAbs * 10 ^ e.toNat) 1
  else f32Round (decide (m < 0)) m.natAbs (10 ^ (-e).toNat)

/-- The NUM nearest to an integer. -/
def f32OfInt (m : Int) : NUM := f32Decimal m 0

theorem f32Mag_neg (x : NUM) : f32Mag (f32Neg x) = f32Mag x := by
  simp only [f32Mag, f32Neg, f32Pattern]; omega

theorem f32Key_neg (x : NUM) : f32Key (f32Neg x) = -f32Key x := by
  have hmag := f32Mag_neg x
  have hneg : f32Negative (f32Neg x) = !f32Negative x := by
    have hp : f32Pattern (f32Neg x) = (f32Pattern x + 2 ^ 31) % 2 ^ 32 := by simp only [f32Pattern, f32Neg]; omega
    have hlt : f32Pattern x < 2 ^ 32 := Nat.mod_lt _ (by decide)
    unfold f32Negative
    rw [hp]
    by_cases h : 2 ^ 31 ≤ f32Pattern x
    · rw [decide_eq_false (by omega), decide_eq_true h]; rfl
    · rw [decide_eq_true (by omega), decide_eq_false h]; rfl
  simp only [f32Key, hneg, hmag]
  cases f32Negative x <;> simp

theorem f32Key_zero : f32Key NUM.zero = 0 := by decide

/-- A limit `L >= 0` has a key that is not negative. -/
theorem f32Key_nonneg (x : NUM) (hf : f32IsFinite x = true) (h : f32Gt NUM.zero x = false) : 0 ≤ f32Key x := by
  have hz : f32IsNaN NUM.zero = false := by decide
  have hx : f32IsNaN x = false := by simp [f32IsNaN, f32IsFinite] at *; omega
  simpa [f32Gt, hz, hx, f32Key_zero] using h

/-- IEEE 754 binary32 as a numeric domain. -/
def binary32 : NumDomain where
  add := f32Add
  sub := f32Sub
  mul := f32Mul
  div := f32Div
  neg := f32Neg
  gt := f32Gt
  isNaN := f32IsNaN
  isFinite := f32IsFinite
  decimal := f32Decimal
  zero_finite := by decide
  finite_notNaN x h := by simp [f32IsNaN, f32IsFinite] at *; omega
  neg_finite x h := by simpa [f32IsFinite, f32Mag_neg] using h
  gt_irrefl x := by simp [f32Gt]
  neg_le_zero x hf h := by
    have := f32Key_nonneg x hf h
    simp [f32Gt, f32Key_neg, f32Key_zero, this]
  neg_le_self x hf h := by
    have := f32Key_nonneg x hf h
    simp only [f32Gt, f32Key_neg, Bool.and_eq_false_iff, decide_eq_false_iff_not]
    right; omega

end Sys2Proof.Machine
end

