-- ==== Sys2Proof/Machine/Reference.lean ====
section
/-! DEFINITION. The hypothetical test configuration of spec/95_test_vectors.md section 1, in the reference instantiation binary32 (R7, D22), and the
configuration each block has. The spec chose these values only to make its vectors concrete: no rule of the machine reads one of
them except through a state that names the reference block. -/

namespace Sys2Proof.Machine

/-- One bit of the reference CRC (95, section 1). -/
def crcBit (c : Half) : Half := if c.getLsbD 0 then (c >>> 1) ^^^ 0x8408#16 else c >>> 1

/-- One byte of the reference CRC. -/
def crcByte (c : Half) (b : Byte) : Half :=
  crcBit (crcBit (crcBit (crcBit (crcBit (crcBit (crcBit (crcBit (c ^^^ b.zeroExtend 16))))))))

/-- CRC-16/MCRF4XX (95, section 1). -/
def refCrc (l : List Byte) : Half := l.foldl crcByte 0xFFFF#16

/-- `len_k` of the test registry. -/
def refLen (k : Kind) : Nat :=
  if k = 3 ∨ k = 6 then 16 else if k = 4 then 12 else if k = 9 then 251 else if k = 10 then 8
  else if k = 11 then 20 else if k = 14 then 0 else 4

def refRow (k : Kind) : RegRow where
  id := BitVec.ofNat 8 (k.val + 1)
  len := BitVec.ofNat 8 (refLen k)
  token := BitVec.ofNat 16 (0xA500 + k.val)
  scale := if k = Kind.ODO then some (f32Decimal 1 3) else if k = Kind.ZGYRO then some (f32Decimal 1 (-2)) else none

/-- A little-endian 32-bit field of a body, as an integer (`sext`). -/
def i32At (b : List Byte) (at' : Nat) : Int :=
  ((b.getD (at' + 3) 0) ++ (b.getD (at' + 2) 0) ++ (b.getD (at' + 1) 0) ++ (b.getD at' 0) : Word).toInt

/-- A field divided by 1000, in NUM (95, section 1, test routing). -/
def milli (b : List Byte) (at' : Nat) : NUM := f32Div (f32OfInt (i32At b at')) (f32OfInt 1000)

def refRoute (k : Kind) (b : List Byte) : List GroupWrite :=
  if k = 3 then [.cmeas #v[milli b 4, milli b 8, milli b 12]]
  else if k = 6 then [.cref #v[milli b 4, milli b 8, milli b 12]]
  else if k = 4 then [.gref #v[milli b 4, milli b 8]]
  else if k = 11 then [.wmeas #v[milli b 4, milli b 8, milli b 12, milli b 16]]
  else []

/-- A dyadic rational `m / 8` in binary32. -/
def eighths (m : Int) : NUM := f32Div (f32OfInt m) (f32OfInt 8)

def refCfg (i : PidIx) : PidCfg :=
  if i.val < 4 then ⟨eighths 4, eighths 4, eighths 0, eighths 8, eighths 16, .err⟩
  else if i.val < 7 then ⟨eighths 8, eighths 0, eighths 0, eighths 0, eighths 64, .err⟩
  else if i.val < 9 then ⟨eighths 16, eighths 0, eighths 0, eighths 0, eighths 32, .err⟩
  else ⟨eighths 4, eighths 0, eighths 2, eighths 0, eighths 8, .meas⟩

def refMec (j : Fin 4) (c : Fin 3) : NUM :=
  f32OfInt (#v[#v[1, -1, -1], #v[1, 1, 1], #v[1, 1, -1], #v[1, -1, 1]][j][c] : Int)

/-- The test layouts: little-endian signed 32-bit fields for `ODO`, `VHC`, `PTZ`, `MOTOR` and `STATU`, raw bytes for the others, for
which 95 takes any layout of `len_k` bytes (assumption 16, DESIGN CHOICE). -/
def refLayout (k : Kind) : List BodyField :=
  if k = 3 ∨ k = 4 ∨ k = 6 ∨ k = 11 ∨ k = 12 then List.replicate (refLen k / 4) ⟨4, .signed, true⟩ else [⟨refLen k, .raw, true⟩]

/-- The test configuration (95, section 1), the reference block's. Section 1 gives no `SIDE_INIT` and no `MSG_TYPE_IDX` but that of `VRC` and `VHC` (R67):
the values here, 0 and 5 for every kind, are the model's (assumption 16, DESIGN CHOICE). -/
def reference : Params where
  num := binary32
  registry := refRow
  bodyLayout := refLayout
  crc16 := refCrc
  rxqCap := 512
  txqCap := 256
  ctlPeriodMs := 10
  dt := eighths 4
  cfg := refCfg
  mecM := refMec
  route := refRoute
  sideInit := ⟨0⟩
  side _ _ x := x
  msgTypeIdx _ := 5

/-- The reference configuration is admitted (R71, R111, R36). -/
def referenceConfig : Config where
  params := reference
  admitted := by decide

/-- The routing of the variant: `IMU` writes both gimbal measurements, `VRC` the group that `VHC` writes, and `STATU` one group twice, so that the
rules about several writes of one tick (R101, R103) can be shown on values. -/
def variantRoute (k : Kind) (b : List Byte) : List GroupWrite :=
  if k = 0 then [.gpos #v[milli b 0, f32OfInt 1], .grate #v[milli b 0, f32OfInt 2]]
  else if k = 5 then [.cref #v[milli b 0, f32OfInt 5, f32OfInt 5]]
  else if k = 12 then [.cmeas #v[milli b 0, f32OfInt 1, f32OfInt 1], .cmeas #v[milli b 0, f32OfInt 2, f32OfInt 2]]
  else refRoute k b

/-- The variant of the test configuration, which is the model's and not the spec's (assumption 16, DESIGN CHOICE): the routing above, and a side channel that records the kinds applied, in order. -/
def variantConfig : Config where
  params := { reference with route := variantRoute, side := fun k _ x => ⟨x.flags * 32 + k.val⟩ }
  admitted := by decide

/-- The configuration of a block. -/
def configOf : ConfigId → Config
  | .reference => referenceConfig
  | .variant => variantConfig
  | .custom n => customConfig n

/-- The parameters of a block. -/
def paramsOf (c : ConfigId) : Params := (configOf c).params

/-- Every block's configuration is admitted (R192 1.). -/
theorem paramsOf_admitted (c : ConfigId) : (paramsOf c).admitted = true := (configOf c).admitted

end Sys2Proof.Machine
end

