-- ==== Sys2Proof/Machine/State.lean ====
section
/-! DEFINITION. The state of the block as plain data: exactly the inventory of R14, and beside it the tag of the block and the four ports
of the model (the agents' steps still to come, the last response, what the actuator sink and the transmit link have taken). The model faults and
refusals, and the state after power-on reset (R190). -/

namespace Sys2Proof.Machine

/-! ## Pieces of state -/

/-- The Control Scheduler's state (R15). -/
inductive Sched where
  | uninitialized
  | ready
  | running
  | faulted
deriving DecidableEq, Repr

/-- The eight diagnostic counters (R17). -/
structure Counters where
  popOk : Word
  unknownId : Word
  schema : Word
  checksum : Word
  pushOk : Word
  lenOverflow : Word
  noSpace : Word
  rxDrop : Word
deriving DecidableEq, Repr

/-- One mailbox `MBOX[k]` (R19). -/
structure Mailbox where
  fresh : Bool
  body : List Byte
deriving DecidableEq, Repr

/-- The current and the previous vector of one group (R21). -/
structure Snapshot (n : Nat) where
  cur : Vector NUM n
  prev : Vector NUM n
deriving DecidableEq, Repr

/-- The control state `Ctl_t`: six groups (R21). -/
structure Groups where
  cref : Snapshot 3
  cmeas : Snapshot 3
  wmeas : Snapshot 4
  gref : Snapshot 2
  gpos : Snapshot 2
  grate : Snapshot 2
deriving DecidableEq, Repr

/-- The four registers of one PID instance (R24). -/
structure PidRegs where
  iacc : NUM
  perr : NUM
  pmeas : NUM
  out : NUM
deriving DecidableEq, Repr

/-! ## What crosses the ports -/

/-- The status codes of R160. -/
inductive Status where
  | ok
  | incomplete
  | unknownId
  | schemaMismatch
  | checksumMismatch
  | lengthOverflow
  | noSpace
  | notFound
  | illegalCommand
deriving DecidableEq, Repr

/-- The fields of a response after `status` (R63). -/
inductive Payload where
  | none
  /-- `REG_BY_ID`, `REG_BY_KIND` with `OK`: `kind`, `id`, `len`, `token`, `scale`. -/
  | row (kind : Kind) (id len : Byte) (token : Half) (scale : Option NUM)
  /-- `MSG_PUSH`: `written`. -/
  | written (n : Nat)
  /-- `MSG_POP` other than `OK`: `consumed`. -/
  | consumed (n : Nat)
  /-- `MSG_POP` with `OK`: `consumed`, `kind`, `id`, `len`, `token`, `body`. -/
  | message (consumed : Nat) (kind : Kind) (id len : Byte) (token : Half) (body : List Byte)
  /-- `CTL_INIT`, `CTL_PROC`: `sched`. -/
  | sched (v : Sched)
  /-- `RD_REG` of a u32 register: `value`. -/
  | u32 (v : Word)
  /-- `RD_REG` of a NUM register: `value`. -/
  | num (v : NUM)
deriving DecidableEq, Repr

/-- The response record of a command (R63). -/
structure Response where
  status : Status
  payload : Payload
deriving DecidableEq, Repr

/-- A dispatch event `(w0, w1, w2, w3, g0, g1)` on the actuator port (R136, R170). -/
structure DispatchEvent where
  w : Vector NUM 4
  g : Vector NUM 2
deriving DecidableEq, Repr

/-- A step of an agent on the block (R169): the issuer's command word with its data operand, the receive producer's byte, the
transmit consumer's step. -/
inductive PortStep where
  | command (word : Half) (data : List Byte)
  | rxPush (b : Byte)
  | txPop
deriving DecidableEq, Repr

/-! ## The state -/

/-- The state of the block (R14), and the model's own tag and ports (assumptions 1 and 6, DESIGN CHOICE). -/
structure State where
  /-- `SCHED` (R15). -/
  sched : Sched
  /-- `WDG_AGE` (R16). -/
  wdgAge : Word
  /-- `CNT_*` (R17). -/
  cnt : Counters
  /-- `RXQ`, oldest byte first (R18). -/
  rxq : List Byte
  /-- `TXQ`, oldest byte first (R18). -/
  txq : List Byte
  /-- `MBOX[0..20]` (R19). -/
  mbox : Vector Mailbox 21
  /-- `SIDE_ST` (R20). -/
  sideSt : SideState
  /-- The six groups (R21). -/
  groups : Groups
  /-- `CMD_W[0..3]` (R23). -/
  cmdW : Vector NUM 4
  /-- `CMD_G[0..1]` (R23). -/
  cmdG : Vector NUM 2
  /-- `pid[0..10]` (R24). -/
  pid : Vector PidRegs 11
  /-- MODEL's tag: which block this is, and so its configuration (R6). -/
  config : ConfigId
  /-- MODEL's port: the steps the agents take next, in the one total order of R46. -/
  pending : List PortStep
  /-- MODEL's port: the response of the last command; none before the first. -/
  response : Option Response
  /-- MODEL's port: the dispatch events the actuator sink has received, oldest first (R170). -/
  sink : List DispatchEvent
  /-- MODEL's port: the bytes the transmit consumer has taken, oldest first (R35). -/
  link : List Byte
deriving DecidableEq, Repr

/-! ## Where a run ends -/

/-- The model faults of R162. -/
inductive Fault where
  /-- Raised by `CTL_PROC` in `Uninitialized` (R141). Safe for claims about a block that is initialised first; it hides what a block
  would do with its power-on contents (R162). -/
  | mfProcBeforeInit
  /-- Raised by `RD_REG` of an "init" selector in `Uninitialized`: the spec's own fault (R150's pseudocode, R152, the table of R162, D29, I13). Safe in
  the same way. -/
  | mfReadBeforeInit
  /-- Raised by step (2) of `CTL_PROC` when a saturated accumulator or an output is NaN (R119). Safe: it removes runs. -/
  | mfPidNan
  /-- Raised by `configure`, before any step, of parameters that are not admitted (R162, R192). Safe: such a block has no runs. -/
  | mfConfig
deriving DecidableEq, Repr

/-- Steps the model does not take. -/
inductive Refusal where
  /-- An instruction that has no meaning yet. No arm of this model uses it. -/
  | notModelled (mnemonic : String)
  /-- Raised by the agent step `TX_POP` with an empty `TXQ`: the step is not enabled (R35, I17), so no hardware run takes it. Safe. -/
  | txPopNotEnabled
deriving DecidableEq, Repr

/-! ## Power-on reset (R190) -/

/-- The power-on value of a NUM vector, which the spec leaves unspecified: zeros (assumption 9, DESIGN CHOICE). -/
def Snapshot.zero (n : Nat) : Snapshot n := ⟨Vector.replicate n NUM.zero, Vector.replicate n NUM.zero⟩

/-- All four registers 0 (R131; at power-on assumption 9, DESIGN CHOICE). -/
def PidRegs.zero : PidRegs := ⟨NUM.zero, NUM.zero, NUM.zero, NUM.zero⟩

/-- Every group 0 (R131; at power-on assumption 9, DESIGN CHOICE). -/
def Groups.zero : Groups :=
  ⟨Snapshot.zero 3, Snapshot.zero 3, Snapshot.zero 4, Snapshot.zero 2, Snapshot.zero 2, Snapshot.zero 2⟩

/-- Every counter 0 (R17). -/
def Counters.zero : Counters := ⟨0, 0, 0, 0, 0, 0, 0, 0⟩

/-- The parameters of the state's block (R6, R7). -/
def State.params (s : State) : Params := paramsOf s.config

/-- The state of the block `c` after power-on reset (R190). `WDG_AGE`, the groups, the outputs, the PID registers and the mailbox
bodies are unspecified there; they are given zeros (assumption 9, DESIGN CHOICE). -/
def State.resetOf (c : ConfigId) : State where
  sched := .uninitialized
  wdgAge := 0
  cnt := Counters.zero
  rxq := []
  txq := []
  mbox := Vector.ofFn fun k => ⟨false, List.replicate ((paramsOf c).registry k).len.toNat 0⟩
  sideSt := (paramsOf c).sideInit
  groups := Groups.zero
  cmdW := Vector.replicate 4 NUM.zero
  cmdG := Vector.replicate 2 NUM.zero
  pid := Vector.replicate 11 PidRegs.zero
  config := c
  pending := []
  response := none
  sink := []
  link := []

/-- The state after power-on reset (R190) of a block whose configuration is not known. -/
def State.reset : State := State.resetOf (.custom 0)

end Sys2Proof.Machine
end

