-- ==== Sys2Proof/Machine/Ops.lean ====
section
/-! DEFINITION. The named operations over the state: one update for each piece of it (each with its read-over-write lemmas), the queue
primitives (R9, R31 to R35), the head (R51 to R53), the frame (R54, R81), the watchdog's arithmetic (R16, R137), the entry into
`Faulted` (R138, R164), the way out of it (R131, R165) and the admission of a configuration (R162). -/

namespace Sys2Proof.Machine

/-! ## Updates -/

/-- The command returns the response `r`. -/
@[simps] def State.respond (s : State) (r : Response) : State := { s with response := some r }

/-- `RXQ <- q`. -/
@[simps] def State.withRxq (s : State) (q : List Byte) : State := { s with rxq := q }

/-- `TXQ <- q`. -/
@[simps] def State.withTxq (s : State) (q : List Byte) : State := { s with txq := q }

/-- `MBOX[k] <- m`. -/
@[simps] def State.withMail (s : State) (k : Kind) (m : Mailbox) : State := { s with mbox := s.mbox.set k.val m }

/-- `SIDE_ST <- x`. -/
@[simps] def State.withSide (s : State) (x : SideState) : State := { s with sideSt := x }

/-- The groups become `g`. -/
@[simps] def State.withGroups (s : State) (g : Groups) : State := { s with groups := g }

/-- The four registers of `pid[i]` become `r`. -/
@[simps] def State.withPid (s : State) (i : PidIx) (r : PidRegs) : State := { s with pid := s.pid.set i.val r }

/-- `CMD_W <- w`. -/
@[simps] def State.withCmdW (s : State) (w : Vector NUM 4) : State := { s with cmdW := w }

/-- `CMD_G <- g`. -/
@[simps] def State.withCmdG (s : State) (g : Vector NUM 2) : State := { s with cmdG := g }

/-- `WDG_AGE <- age`. -/
@[simps] def State.withAge (s : State) (age : Word) : State := { s with wdgAge := age }

/-- `SCHED <- v`. -/
@[simps] def State.withSched (s : State) (v : Sched) : State := { s with sched := v }

/-- The steps still to come are `l`. -/
@[simps] def State.withPending (s : State) (l : List PortStep) : State := { s with pending := l }

/-- The actuator sink receives the event `e` (R170; assumption 13, DEDUCED). -/
@[simps] def State.emit (s : State) (e : DispatchEvent) : State := { s with sink := s.sink ++ [e] }

/-- The byte `b` leaves the block onto the link (R35). -/
@[simps] def State.sendByte (s : State) (b : Byte) : State := { s with link := s.link ++ [b] }

/-- The value of a counter (R17). -/
def Counters.get (c : Counters) : Counter → Word
  | .popOk => c.popOk
  | .unknownId => c.unknownId
  | .schema => c.schema
  | .checksum => c.checksum
  | .pushOk => c.pushOk
  | .lenOverflow => c.lenOverflow
  | .noSpace => c.noSpace
  | .rxDrop => c.rxDrop

/-- A counter grows by 1 modulo 2^32 (R17). -/
def Counters.bump (c : Counters) : Counter → Counters
  | .popOk => { c with popOk := c.popOk + 1 }
  | .unknownId => { c with unknownId := c.unknownId + 1 }
  | .schema => { c with schema := c.schema + 1 }
  | .checksum => { c with checksum := c.checksum + 1 }
  | .pushOk => { c with pushOk := c.pushOk + 1 }
  | .lenOverflow => { c with lenOverflow := c.lenOverflow + 1 }
  | .noSpace => { c with noSpace := c.noSpace + 1 }
  | .rxDrop => { c with rxDrop := c.rxDrop + 1 }

/-- The event counted by `c` happened (R17). -/
@[simps] def State.count (s : State) (c : Counter) : State := { s with cnt := s.cnt.bump c }

/-! ## Queue primitives (R9) -/

/-- `RxAvail()`. -/
def rxAvail (s : State) : Nat := s.rxq.length

/-- `RxPeek(n)`: the `n` oldest bytes, not removed. -/
def rxPeek (s : State) (n : Nat) : List Byte := s.rxq.take n

/-- `RxDrop(n)`: the `n` oldest bytes are removed. -/
def rxDrop (s : State) (n : Nat) : State := s.withRxq (s.rxq.drop n)

/-- `TxFree()` = `TXQ_CAP - |TXQ|` (R34). -/
def txFree (P : Params) (s : State) : Nat := P.txqCap - s.txq.length

/-- `TxAppend(f)`. -/
def txAppend (s : State) (f : List Byte) : State := s.withTxq (s.txq ++ f)

/-! ## Byte order (R38, R39) -/

/-- A 16-bit value in wire order, least significant byte first. -/
def le16 (v : Half) : List Byte := [v.extractLsb' 0 8, v.extractLsb' 8 8]

/-- The 16-bit value of two wire bytes, the least significant one first. -/
def ofLe16 (lo hi : Byte) : Half := lo.zeroExtend 16 ||| (hi.zeroExtend 16 <<< 8)

/-! ## The head (R51 to R53) -/

/-- The head record `(id, length, token)` (R51). -/
structure Head where
  id : Byte
  len : Byte
  token : Half
deriving DecidableEq, Repr

/-- The head word `id | length<<8 | token<<16` (R51, R52). -/
def headWord (h : Head) : Word := h.id.zeroExtend 32 ||| (h.len.zeroExtend 32 <<< 8) ||| (h.token.zeroExtend 32 <<< 16)

/-- `HeadPack` (R52). -/
def headPack (h : Head) : List Byte :=
  let w := headWord h
  [w.extractLsb' 0 8, w.extractLsb' 8 8, w.extractLsb' 16 8, w.extractLsb' 24 8]

/-- `HeadUnpack` of a 4-byte string (R53). -/
def headUnpack (hb : List Byte) : Head :=
  { id := hb.getD 0 0, len := hb.getD 1 0, token := ofLe16 (hb.getD 2 0) (hb.getD 3 0) }

/-! ## The registry and the frame -/

/-- `LookupById` (R72). -/
def lookupById (P : Params) (id : Byte) : Option Kind := kinds.find? fun k => (P.registry k).id == id

/-- `LookupByKind` (R73). -/
def lookupByKind (P : Params) (k : Kind) : RegRow := P.registry k

/-- `len_k` as a number of bytes. -/
def lenOf (P : Params) (k : Kind) : Nat := (P.registry k).len.toNat

/-- The head of kind `k`, taken from the registry (R54, R81). -/
def headOf (P : Params) (k : Kind) : Head :=
  { id := (P.registry k).id, len := (P.registry k).len, token := (P.registry k).token }

/-- `T = 6 + len_k`, computed exactly (R10, R54). -/
def frameSize (P : Params) (k : Kind) : Nat := HEAD_LEN + lenOf P k + CRC_LEN

/-- `Encode(k, B)` (R81). -/
def encodeFrame (P : Params) (k : Kind) (body : List Byte) : List Byte :=
  let covered := headPack (headOf P k) ++ body
  covered ++ le16 (P.crc16 covered)

/-- The physical value of a raw integer of a kind that has a scale: `raw / scale_k` (R76). For a kind without one the spec names no
physical value; the model answers `raw` (assumption 15, DESIGN CHOICE). No command calls this; consumers of the registry and `ROUTE` may. -/
def physical (P : Params) (k : Kind) (raw : NUM) : NUM :=
  match (P.registry k).scale with
  | some x => P.num.div raw x
  | none => raw

/-- The type bit `1 << MSG_TYPE_IDX(k)` of kind `k` in the 32-bit subscription mask (R67). Only `SIDE` reads the mask. -/
def typeBit (P : Params) (k : Kind) : Word := 1#32 <<< (P.msgTypeIdx k).val

/-! ## The watchdog's arithmetic (R16, R137) -/

/-- `WDG_AGE + ms`, saturating at 2^32 - 1. -/
def ageAdd (age : Word) (ms : Nat) : Word := BitVec.ofNat 32 (min (age.toNat + ms) (2 ^ 32 - 1))

/-! ## The trap-like event and the way out of it -/

/-- The six commanded outputs become +0 (R131, R138). -/
def zeroOutputs (s : State) : State :=
  (s.withCmdW (Vector.replicate 4 NUM.zero)).withCmdG (Vector.replicate 2 NUM.zero)

/-- Entry into `Faulted`, the block's one trap-like event (R138, R164): it saves nothing, has no vector, and changes `SCHED` and the
six commanded outputs only. -/
def enterFaulted (s : State) : State := zeroOutputs (s.withSched .faulted)

/-- What `CTL_INIT` does to the control side, the only way out of `Faulted` (R131, R165): groups, PID registers, outputs and
`WDG_AGE` become 0 and `SCHED` becomes `Ready`. -/
def initControl (s : State) : State :=
  { zeroOutputs s with groups := Groups.zero, pid := Vector.replicate 11 PidRegs.zero, wdgAge := 0, sched := .ready }

/-! ## Configuration (R162, R190, R192 1.) -/

/-- The check made once, before the first step: parameters that are not admitted raise `MF_CONFIG` and have no runs (R71, R162). -/
def configure (P : Params) : Except Fault Config :=
  if h : P.admitted = true then .ok ⟨P, h⟩ else .error .mfConfig

end Sys2Proof.Machine
end

