-- ==== Sys2Proof/Machine/Operands.lean ====
section
/-! DEFINITION. The operand forms of the command word's field `S` (R59): a kind index (R64), and a register selector with the map of
R151, both ways. -/

namespace Sys2Proof.Machine

/-- `S` as a kind index; none when `S > 20` (R61 (c)). -/
def kindOf? (s : Byte) : Option Kind := if h : s.toNat < 21 then some ⟨s.toNat, h⟩ else none

/-- A kind index as the operand `S`. -/
def kindByte (k : Kind) : Byte := BitVec.ofNat 8 k.val

/-- The counters in selector order, from `0x02` (R17, R151). -/
def counters : List Counter :=
  [.popOk, .unknownId, .schema, .checksum, .pushOk, .lenOverflow, .noSpace, .rxDrop]

/-- The PID registers in selector order (R151). -/
def pidFields : List PidField := [.iacc, .perr, .pmeas, .out]

/-- The register a selector names (R151); none for an unlisted selector. -/
def selOf? (sel : Byte) : Option RegSel :=
  let n := sel.toNat
  if n = 0x00 then some .sched
  else if n = 0x01 then some .wdgAge
  else if n < 0x0A then counters[n - 0x02]?.map .counter
  else if n = 0x0A then some .rxqLen
  else if n = 0x0B then some .txqLen
  else if n = 0x0C then some .mboxFresh
  else if n < 0x10 then none
  else if h : 0x10 ≤ n ∧ n < 0x13 then some (.cref .cur ⟨n - 0x10, by omega⟩)
  else if h : 0x13 ≤ n ∧ n < 0x16 then some (.cref .prev ⟨n - 0x13, by omega⟩)
  else if h : 0x16 ≤ n ∧ n < 0x19 then some (.cmeas .cur ⟨n - 0x16, by omega⟩)
  else if h : 0x19 ≤ n ∧ n < 0x1C then some (.cmeas .prev ⟨n - 0x19, by omega⟩)
  else if h : 0x1C ≤ n ∧ n < 0x20 then some (.wmeas .cur ⟨n - 0x1C, by omega⟩)
  else if h : 0x20 ≤ n ∧ n < 0x24 then some (.wmeas .prev ⟨n - 0x20, by omega⟩)
  else if h : 0x24 ≤ n ∧ n < 0x26 then some (.gref .cur ⟨n - 0x24, by omega⟩)
  else if h : 0x26 ≤ n ∧ n < 0x28 then some (.gref .prev ⟨n - 0x26, by omega⟩)
  else if h : 0x28 ≤ n ∧ n < 0x2A then some (.gpos .cur ⟨n - 0x28, by omega⟩)
  else if h : 0x2A ≤ n ∧ n < 0x2C then some (.gpos .prev ⟨n - 0x2A, by omega⟩)
  else if h : 0x2C ≤ n ∧ n < 0x2E then some (.grate .cur ⟨n - 0x2C, by omega⟩)
  else if h : 0x2E ≤ n ∧ n < 0x30 then some (.grate .prev ⟨n - 0x2E, by omega⟩)
  else if h : 0x30 ≤ n ∧ n < 0x34 then some (.cmdW ⟨n - 0x30, by omega⟩)
  else if h : 0x34 ≤ n ∧ n < 0x36 then some (.cmdG ⟨n - 0x34, by omega⟩)
  else if h : 0x40 ≤ n ∧ n < 0x6C then pidFields[(n - 0x40) % 4]?.map (.pid ⟨(n - 0x40) / 4, by omega⟩)
  else none

/-- The first selector of a pair of vectors, by slot. -/
def slotBase (cur prev : Nat) : Slot → Nat
  | .cur => cur
  | .prev => prev

/-- The offset of a counter in the selector map (R151). -/
def counterOffset : Counter → Nat
  | .popOk => 0
  | .unknownId => 1
  | .schema => 2
  | .checksum => 3
  | .pushOk => 4
  | .lenOverflow => 5
  | .noSpace => 6
  | .rxDrop => 7

/-- The offset of a PID register in its instance (R151). -/
def pidFieldOffset : PidField → Nat
  | .iacc => 0
  | .perr => 1
  | .pmeas => 2
  | .out => 3

/-- The selector of a register (R151), written apart from `selOf?`. -/
def selByte (r : RegSel) : Byte :=
  BitVec.ofNat 8 <| match r with
    | .sched => 0x00
    | .wdgAge => 0x01
    | .counter c => 0x02 + counterOffset c
    | .rxqLen => 0x0A
    | .txqLen => 0x0B
    | .mboxFresh => 0x0C
    | .cref slot j => slotBase 0x10 0x13 slot + j.val
    | .cmeas slot j => slotBase 0x16 0x19 slot + j.val
    | .wmeas slot j => slotBase 0x1C 0x20 slot + j.val
    | .gref slot a => slotBase 0x24 0x26 slot + a.val
    | .gpos slot a => slotBase 0x28 0x2A slot + a.val
    | .grate slot a => slotBase 0x2C 0x2E slot + a.val
    | .cmdW j => 0x30 + j.val
    | .cmdG a => 0x34 + a.val
    | .pid i f => 0x40 + 4 * i.val + pidFieldOffset f

/-- The selector of the register is marked "init" in the map of R151. -/
def isInit : RegSel → Bool
  | .sched | .counter _ | .rxqLen | .txqLen | .mboxFresh => false
  | .wdgAge | .cref .. | .cmeas .. | .wmeas .. | .gref .. | .gpos .. | .grate .. | .cmdW _ | .cmdG _ | .pid .. => true

/-- One slot of a group. -/
def Snapshot.get {n : Nat} (g : Snapshot n) : Slot → Vector NUM n
  | .cur => g.cur
  | .prev => g.prev

/-- One register of a PID instance. -/
def PidRegs.get (r : PidRegs) : PidField → NUM
  | .iacc => r.iacc
  | .perr => r.perr
  | .pmeas => r.pmeas
  | .out => r.out

end Sys2Proof.Machine
end

