-- ==== Sys2Proof/Machine/Flags.lean ====
section
/-! DEFINITION. The block has no condition codes (R26). Its status is a code in the response (R160) and three persistent pieces: `SCHED`
(R15), the counters (R17) and the mailbox `fresh` bits, which are read as words (R151). -/

namespace Sys2Proof.Machine

/-- The u8 status code (R160). -/
def Status.code : Status → Byte
  | .ok => 0
  | .incomplete => 1
  | .unknownId => 2
  | .schemaMismatch => 3
  | .checksumMismatch => 4
  | .lengthOverflow => 5
  | .noSpace => 6
  | .notFound => 7
  | .illegalCommand => 8

/-- The 2-bit encoding of `SCHED` (R15). -/
def Sched.code : Sched → BitVec 2
  | .uninitialized => 0
  | .ready => 1
  | .running => 2
  | .faulted => 3

/-- `SCHED` in bits `[1:0]`, bits `[31:2]` 0 (R151). -/
def schedWord (v : Sched) : Word := v.code.zeroExtend 32

/-- `MBOX_FRESH`: bit `k` is `MBOX[k].fresh` for `k` in 0..20, bits `[31:21]` are 0 (R151). -/
def freshWord (mbox : Vector Mailbox 21) : Word :=
  kinds.foldl (fun w k => if mbox[k].fresh then w ||| (1#32 <<< k.val) else w) 0

/-- A queue's length as a u32 register reads it (R151); a length no u32 holds reads as a free value (assumption 7, DESIGN CHOICE). -/
def queueLenWord (n : Nat) : Word := if n < 2 ^ 32 then BitVec.ofNat 32 n else freeQueueLen n

/-- Which status codes each command returns, and nothing else (R161). -/
def statusAllowed : Instr → Status → Bool
  | .nop, st => st == .ok || st == .illegalCommand
  | .regById _, st => st == .ok || st == .notFound
  | .regByKind _, st => st == .ok || st == .illegalCommand
  | .msgPush _ _, st => st == .ok || st == .lengthOverflow || st == .noSpace || st == .illegalCommand
  | .msgPop, st =>
    st == .ok || st == .incomplete || st == .unknownId || st == .schemaMismatch || st == .checksumMismatch || st == .illegalCommand
  | .ctlInit, st => st == .ok || st == .illegalCommand
  | .ctlProc, st => st == .ok || st == .illegalCommand
  | .rdReg _, st => st == .ok || st == .illegalCommand

end Sys2Proof.Machine
end

