-- ==== Sys2Proof/Machine/Agents.lean ====
section
/-! DEFINITION. The port agents' steps: `RX_PUSH` (R32) and `TX_POP` (R35). The actuator sink takes its events as `CTL_PROC` emits them
(R170). -/

namespace Sys2Proof.Machine

/-- `RX_PUSH(b)` (R32): a byte offered to a full queue is dropped and counted. -/
def rxPush (P : Params) (b : Byte) (s : State) : State :=
  if s.rxq.length < P.rxqCap then s.withRxq (s.rxq ++ [b]) else s.count .rxDrop

/-- `TX_POP` (R35): the oldest byte leaves onto the link; with an empty queue the step is not enabled. -/
def txPop (s : State) : Host.Outcome State Fault Refusal :=
  match s.txq with
  | [] => .refused .txPopNotEnabled
  | b :: rest => .next ((s.withTxq rest).sendByte b)

end Sys2Proof.Machine
end

