-- ==== Sys2Proof/Machine/Codec.lean ====
section
/-! DEFINITION. The Frame Codec commands `MSG_PUSH` (R82) and `MSG_POP` (R83 to R90), and the issuer's loop `POP_ALL` (R66). -/

namespace Sys2Proof.Machine

/-- `MSG_PUSH k, B` (R82). A frame is appended whole or not at all. -/
def msgPush (P : Params) (sByte : Byte) (body : List Byte) (s : State) : State :=
  match kindOf? sByte with
  | none => s.respond ⟨.illegalCommand, .written 0⟩
  | some k =>
    if body.length ≠ lenOf P k then s.respond ⟨.illegalCommand, .written 0⟩
    else if frameSize P k > MSG_LEN_MAX then (s.count .lenOverflow).respond ⟨.lengthOverflow, .written 0⟩
    else if txFree P s < frameSize P k then (s.count .noSpace).respond ⟨.noSpace, .written 0⟩
    else ((txAppend s (encodeFrame P k body)).count .pushOk).respond ⟨.ok, .written (frameSize P k)⟩

/-- The outcomes of decoding the oldest bytes of `RXQ` (R83 to R88). -/
inductive PopOutcome where
  /-- Underrun or incomplete frame (R83, R86): nothing is consumed. -/
  | incomplete
  /-- Unknown id (R84): one byte is consumed. -/
  | unknownId
  /-- Schema mismatch (R85): one byte is consumed. -/
  | schemaMismatch
  /-- Checksum mismatch (R87): the frame of kind `k` is consumed. -/
  | checksumMismatch (k : Kind)
  /-- Success (R88): the frame of kind `k` with body `body` is consumed. -/
  | message (k : Kind) (body : List Byte)
deriving DecidableEq, Repr

/-- The CRC on the wire of the frame `f` of kind `k` (R87). -/
def wireCrc (P : Params) (k : Kind) (f : List Byte) : Half :=
  ofLe16 (f.getD (HEAD_LEN + lenOf P k) 0) (f.getD (HEAD_LEN + lenOf P k + 1) 0)

/-- What is decoded from the receive queue `q`, the checks in the order of R89. -/
def popOutcome (P : Params) (q : List Byte) : PopOutcome :=
  if q.length < MSG_LEN_MIN then .incomplete
  else
    let h := headUnpack (q.take HEAD_LEN)
    match lookupById P h.id with
    | none => .unknownId
    | some k =>
      if h.len ≠ (P.registry k).len ∨ h.token ≠ (P.registry k).token then .schemaMismatch
      else if q.length < frameSize P k then .incomplete
      else
        let f := q.take (frameSize P k)
        if P.crc16 (f.take (HEAD_LEN + lenOf P k)) ≠ wireCrc P k f then .checksumMismatch k
        else .message k ((f.drop HEAD_LEN).take (lenOf P k))

/-- `MSG_POP` (R90): the outcome's bytes leave `RXQ`, its counter grows, and a decoded body enters the mailbox. -/
def msgPop (P : Params) (s : State) : State :=
  match popOutcome P (rxPeek s (rxAvail s)) with
  | .incomplete => s.respond ⟨.incomplete, .consumed 0⟩
  | .unknownId => ((rxDrop s 1).count .unknownId).respond ⟨.unknownId, .consumed 1⟩
  | .schemaMismatch => ((rxDrop s 1).count .schema).respond ⟨.schemaMismatch, .consumed 1⟩
  | .checksumMismatch k =>
    ((rxDrop s (frameSize P k)).count .checksum).respond ⟨.checksumMismatch, .consumed (frameSize P k)⟩
  | .message k body =>
    (((rxDrop s (frameSize P k)).withMail k ⟨true, body⟩).count .popOk).respond
      ⟨.ok, .message (frameSize P k) k (P.registry k).id (P.registry k).len (P.registry k).token body⟩

/-- The status of the last response (R63). -/
def lastStatus (s : State) : Option Status := s.response.map Response.status

/-- The pseudo-instruction `POP_ALL` (R66), a loop of the issuer: `MSG_POP` until a response is `INCOMPLETE`, at most `fuel` times. -/
def popAll (P : Params) : Nat → State → State
  | 0, s => s
  | fuel + 1, s => if lastStatus (msgPop P s) = some .incomplete then msgPop P s else popAll P fuel (msgPop P s)

/-- The meaning of `MSG_PUSH` (R82). -/
def execMsgPush (sByte : Byte) (body : List Byte) (s : State) : Host.Outcome State Fault Refusal :=
  .next (msgPush s.params sByte body s)

/-- The meaning of `MSG_POP` (R90). -/
def execMsgPop (s : State) : Host.Outcome State Fault Refusal := .next (msgPop s.params s)

end Sys2Proof.Machine
end

