-- ==== Sys2Proof/Machine/Readback.lean ====
section
/-! DEFINITION. Telemetry readback `RD_REG` (R150 to R152) and `NOP` (R153). -/

namespace Sys2Proof.Machine

/-- The value of the register a selector names, as the response carries it (R151). -/
def readReg (s : State) : RegSel → Payload
  | .sched => .u32 (schedWord s.sched)
  | .wdgAge => .u32 s.wdgAge
  | .counter c => .u32 (s.cnt.get c)
  | .rxqLen => .u32 (queueLenWord s.rxq.length)
  | .txqLen => .u32 (queueLenWord s.txq.length)
  | .mboxFresh => .u32 (freshWord s.mbox)
  | .cref slot j => .num (s.groups.cref.get slot)[j]
  | .cmeas slot j => .num (s.groups.cmeas.get slot)[j]
  | .wmeas slot j => .num (s.groups.wmeas.get slot)[j]
  | .gref slot a => .num (s.groups.gref.get slot)[a]
  | .gpos slot a => .num (s.groups.gpos.get slot)[a]
  | .grate slot a => .num (s.groups.grate.get slot)[a]
  | .cmdW j => .num s.cmdW[j]
  | .cmdG a => .num s.cmdG[a]
  | .pid i f => .num (s.pid[i].get f)

/-- `RD_REG sel`, as the pseudocode of R150 has it: an unlisted selector is `ILLEGAL_COMMAND`; a selector marked "init" while `SCHED` is
`Uninitialized` raises the spec's model fault `MF_READ_BEFORE_INIT` (R150, R152, R162); any other read completes. The selector is checked before the
scheduler state (R166). -/
def rdReg (sel : Byte) (s : State) : Except Fault State :=
  match selOf? sel with
  | none => .ok (s.respond ⟨.illegalCommand, .none⟩)
  | some r =>
    if isInit r && s.sched == .uninitialized then .error .mfReadBeforeInit
    else .ok (s.respond ⟨.ok, readReg s r⟩)

/-- The meaning of `NOP` (R153). -/
def execNop (s : State) : Host.Outcome State Fault Refusal := .next (s.respond ⟨.ok, .none⟩)

/-- The meaning of `RD_REG` (R150). -/
def execRdReg (sel : Byte) (s : State) : Host.Outcome State Fault Refusal :=
  match rdReg sel s with
  | .ok t => .next t
  | .error f => .fault f

end Sys2Proof.Machine
end

