-- ==== Sys2Proof/Machine/Registry.lean ====
section
/-! DEFINITION. The Message Registry commands `REG_BY_ID` (R74) and `REG_BY_KIND` (R75). -/

namespace Sys2Proof.Machine

/-- The response that carries the registry row of kind `k` (R63). -/
def rowResponse (P : Params) (k : Kind) : Response :=
  let r := lookupByKind P k
  ⟨.ok, .row k r.id r.len r.token r.scale⟩

/-- `REG_BY_ID id` (R74). -/
def regById (P : Params) (id : Byte) (s : State) : State :=
  match lookupById P id with
  | none => s.respond ⟨.notFound, .none⟩
  | some k => s.respond (rowResponse P k)

/-- `REG_BY_KIND k` (R75). -/
def regByKind (P : Params) (sByte : Byte) (s : State) : State :=
  match kindOf? sByte with
  | none => s.respond ⟨.illegalCommand, .none⟩
  | some k => s.respond (rowResponse P k)

/-- The meaning of `REG_BY_ID` (R74). -/
def execRegById (id : Byte) (s : State) : Host.Outcome State Fault Refusal := .next (regById s.params id s)

/-- The meaning of `REG_BY_KIND` (R75). -/
def execRegByKind (sByte : Byte) (s : State) : Host.Outcome State Fault Refusal := .next (regByKind s.params sByte s)

end Sys2Proof.Machine
end

