-- ==== Sys2Proof/Machine/Aggregator.lean ====
section
/-! DEFINITION. The State Aggregator's internal operation `Apply` (R100 to R109), step (1) of `CTL_PROC`. -/

namespace Sys2Proof.Machine

/-- The group a write of `ROUTE` goes to (R108). -/
def groupOf : GroupWrite → Group
  | .cref _ => .cref
  | .cmeas _ => .cmeas
  | .wmeas _ => .wmeas
  | .gref _ => .gref
  | .gpos _ => .gpos
  | .grate _ => .grate

/-- `reg.G.cur <- v`, the whole group (R101). -/
def writeCur (g : Groups) : GroupWrite → Groups
  | .cref v => { g with cref := { g.cref with cur := v } }
  | .cmeas v => { g with cmeas := { g.cmeas with cur := v } }
  | .wmeas v => { g with wmeas := { g.wmeas with cur := v } }
  | .gref v => { g with gref := { g.gref with cur := v } }
  | .gpos v => { g with gpos := { g.gpos with cur := v } }
  | .grate v => { g with grate := { g.grate with cur := v } }

/-- One group's `prev` becomes the `cur` it had at the start of the tick when the group was written, and stays otherwise (R102). -/
def latchOne {n : Nat} (written : Bool) (old new : Snapshot n) : Snapshot n :=
  if written then { new with prev := old.cur } else new

/-- Every written group's `prev` is set once, from the groups `old` of the start of the tick (R102). -/
def latchPrev (written : List Group) (old new : Groups) : Groups where
  cref := latchOne (written.contains .cref) old.cref new.cref
  cmeas := latchOne (written.contains .cmeas) old.cmeas new.cmeas
  wmeas := latchOne (written.contains .wmeas) old.wmeas new.wmeas
  gref := latchOne (written.contains .gref) old.gref new.gref
  gpos := latchOne (written.contains .gpos) old.gpos new.gpos
  grate := latchOne (written.contains .grate) old.grate new.grate

/-- A fresh body of kind `k` is applied: its group writes in list order, then the side channel, then `fresh` is cleared
(R100, R103, R104, R106). -/
def applyBody (P : Params) (k : Kind) (body : List Byte) (s : State) : State :=
  ((s.withGroups ((P.route k body).foldl writeCur s.groups)).withSide (P.side k body s.sideSt)).withMail k ⟨false, body⟩

/-- One turn of `Apply`'s loop, with the groups written so far (R100). -/
def applyKind (P : Params) (acc : State × List Group) (k : Kind) : State × List Group :=
  let m := acc.1.mbox[k]
  if m.fresh then (applyBody P k m.body acc.1, acc.2 ++ (P.route k m.body).map groupOf) else acc

/-- `Apply() -> fresh_any` (R100): the kinds in ascending order, then the previous snapshots. -/
def apply (P : Params) (s : State) : State × Bool :=
  let r := kinds.foldl (applyKind P) (s, [])
  (r.1.withGroups (latchPrev r.2 s.groups r.1.groups), r.2 != [])

end Sys2Proof.Machine
end

