-- ==== Sys2Proof/Machine/PidBank.lean ====
section
/-! DEFINITION. The PID Bank's datapath: `clamp`, `PidStep`, `MecIK` and the two cascades (R110 to R125), step (2) of `CTL_PROC`. Each
arithmetic operation is one operation of the numeric domain, in the order the parentheses show (R10). -/

namespace Sys2Proof.Machine

/-- `clamp(x, L)` (R112). -/
def clamp (N : NumDomain) (x limit : NUM) : NUM :=
  if N.gt x limit then limit else if N.lt x (N.neg limit) then N.neg limit else x

/-- The multiply-accumulate of the integral term, saturated (R115). -/
def integralTerm (N : NumDomain) (c : PidCfg) (r : PidRegs) (e dt : NUM) : NUM :=
  clamp N (N.add r.iacc (N.mul (N.mul c.ki e) dt)) c.ilim

/-- The derivative term, on error or on measurement (R116). -/
def derivativeTerm (N : NumDomain) (c : PidCfg) (r : PidRegs) (e m dt : NUM) : NUM :=
  match c.dmode with
  | .err => N.mul c.kd (N.div (N.sub e r.perr) dt)
  | .meas => N.mul c.kd (N.div (N.sub r.pmeas m) dt)

/-- The four feedback registers after a step with `dt > 0` (R117, R118). -/
def pidNext (N : NumDomain) (c : PidCfg) (r : PidRegs) (sp m dt : NUM) : PidRegs :=
  let e := N.sub sp m
  let ia := integralTerm N c r e dt
  let u := clamp N (N.add (N.add (N.mul c.kp e) ia) (derivativeTerm N c r e m dt)) c.olim
  ⟨ia, e, m, u⟩

/-- `PidStep` on one instance's registers (R113): they are held when `dt > 0` is false (R114), and a NaN accumulator or output is the
model fault `MF_PID_NAN` (R119). The value the step returns is the new `OUT`. -/
def pidStep (N : NumDomain) (c : PidCfg) (r : PidRegs) (sp m dt : NUM) : Except Fault PidRegs :=
  if !N.gt dt NUM.zero then .ok r
  else
    let r' := pidNext N c r sp m dt
    if N.isNaN r'.iacc || N.isNaN r'.out then .error .mfPidNan else .ok r'

/-- `PidStep(i, sp, m, DT)` on the bank (R113, R135): the output and the state with the instance's registers written. -/
def pidStepAt (P : Params) (i : PidIx) (sp m : NUM) (s : State) : Except Fault (NUM × State) :=
  match pidStep P.num (P.cfg i) s.pid[i] sp m P.dt with
  | .error f => .error f
  | .ok r => .ok (r.out, s.withPid i r)

/-- One wheel's target (R121). -/
def mecRow (P : Params) (vc : Vector NUM 3) (j : Fin 4) : NUM :=
  P.num.add (P.num.add (P.num.mul (P.mecM j 0) vc[0]) (P.num.mul (P.mecM j 1) vc[1])) (P.num.mul (P.mecM j 2) vc[2])

/-- `MecIK(VC) -> WT` (R121). -/
def mecIK (P : Params) (vc : Vector NUM 3) : Vector NUM 4 := #v[mecRow P vc 0, mecRow P vc 1, mecRow P vc 2, mecRow P vc 3]

/-- The chassis cascade (R122, in the order of R124). -/
def chassisCascade (P : Params) (s : State) : Except Fault State := do
  let (vx, s) ← pidStepAt P (PidIx.chassis 0) s.groups.cref.cur[0] s.groups.cmeas.cur[0] s
  let (vy, s) ← pidStepAt P (PidIx.chassis 1) s.groups.cref.cur[1] s.groups.cmeas.cur[1] s
  let (vz, s) ← pidStepAt P (PidIx.chassis 2) s.groups.cref.cur[2] s.groups.cmeas.cur[2] s
  let wt := mecIK P #v[vx, vy, vz]
  let (w0, s) ← pidStepAt P (PidIx.wheel 0) wt[0] s.groups.wmeas.cur[0] s
  let (w1, s) ← pidStepAt P (PidIx.wheel 1) wt[1] s.groups.wmeas.cur[1] s
  let (w2, s) ← pidStepAt P (PidIx.wheel 2) wt[2] s.groups.wmeas.cur[2] s
  let (w3, s) ← pidStepAt P (PidIx.wheel 3) wt[3] s.groups.wmeas.cur[3] s
  return s.withCmdW #v[w0, w1, w2, w3]

/-- One axis of the gimbal cascade: the position loop's output is the rate loop's setpoint (R123). -/
def gimbalAxis (P : Params) (a : Fin 2) (s : State) : Except Fault (NUM × State) := do
  let (rs, s) ← pidStepAt P (PidIx.gimbalPos a) s.groups.gref.cur[a] s.groups.gpos.cur[a] s
  pidStepAt P (PidIx.gimbalRate a) rs s.groups.grate.cur[a] s

/-- The gimbal cascade (R123, in the order of R124). -/
def gimbalCascade (P : Params) (s : State) : Except Fault State := do
  let (g0, s) ← gimbalAxis P 0 s
  let (g1, s) ← gimbalAxis P 1 s
  return s.withCmdG #v[g0, g1]

/-- Step (2) of a tick (R135): both cascades, once. -/
def cascade (P : Params) (s : State) : Except Fault State := do
  let s ← chassisCascade P s
  gimbalCascade P s

end Sys2Proof.Machine
end

