-- ==== Sys2Proof/Machine/Scheduler.lean ====
section
/-! DEFINITION. The Control Scheduler: `CTL_INIT` (R131) and `CTL_PROC` (R132 to R143). -/

namespace Sys2Proof.Machine

/-- `CTL_INIT` (R131). -/
def ctlInit (s : State) : State := (initControl s).respond ⟨.ok, .sched .ready⟩

/-- Step (0): a `Ready` block starts running (R133). -/
def startTick (s : State) : State := if s.sched = .ready then s.withSched .running else s

/-- Step (2): the cascades run in `Running` and not in `Faulted` (R135). -/
def cascadeIfRunning (P : Params) (s : State) : Except Fault State :=
  if s.sched = .running then cascade P s else .ok s

/-- Step (3): one dispatch event with the commanded outputs (R136). -/
def dispatch (s : State) : State := s.emit ⟨s.cmdW, s.cmdG⟩

/-- Step (4): the watchdog heartbeat (R137). -/
def heartbeat (P : Params) (fresh : Bool) (s : State) : State :=
  s.withAge (if fresh then 0 else ageAdd s.wdgAge P.ctlPeriodMs)

/-- The fault transition after step (4) (R138). -/
def checkStale (s : State) : State :=
  if s.sched = .running ∧ ERR_TSK_TMS < s.wdgAge.toNat then enterFaulted s else s

/-- Steps (3) and (4) of a tick, and its response (R132). -/
def finishTick (P : Params) (fresh : Bool) (s : State) : State :=
  let s := checkStale (heartbeat P fresh (dispatch s))
  s.respond ⟨.ok, .sched s.sched⟩

/-- One tick in `Ready`, `Running` or `Faulted`: steps (0) to (4) (R132). -/
def tick (P : Params) (s : State) : Except Fault State :=
  let a := apply P (startTick s)
  match cascadeIfRunning P a.1 with
  | .error f => .error f
  | .ok s => .ok (finishTick P a.2 s)

/-- `CTL_PROC` (R132, R141). -/
def ctlProc (P : Params) (s : State) : Except Fault State :=
  if s.sched = .uninitialized then .error .mfProcBeforeInit else tick P s

/-- The meaning of `CTL_INIT` (R131). -/
def execCtlInit (s : State) : Host.Outcome State Fault Refusal := .next (ctlInit s)

/-- The meaning of `CTL_PROC` (R132). -/
def execCtlProc (s : State) : Host.Outcome State Fault Refusal :=
  match ctlProc s.params s with
  | .ok t => .next t
  | .error f => .fault f

end Sys2Proof.Machine
end

