-- ==== Sys2Proof/Machine/Dispatch.lean ====
section
/-! DEFINITION. Which meaning each command has: one arm per constructor. -/

namespace Sys2Proof.Machine

def exec (i : Instr) (s : State) : Host.Outcome State Fault Refusal :=
  match i with
  | .nop => Sys2Proof.Machine.execNop s
  | .regById id => Sys2Proof.Machine.execRegById id s
  | .regByKind k => Sys2Proof.Machine.execRegByKind k s
  | .msgPush k body => Sys2Proof.Machine.execMsgPush k body s
  | .msgPop => Sys2Proof.Machine.execMsgPop s
  | .ctlInit => Sys2Proof.Machine.execCtlInit s
  | .ctlProc => Sys2Proof.Machine.execCtlProc s
  | .rdReg sel => Sys2Proof.Machine.execRdReg sel s

end Sys2Proof.Machine
end

