-- ==== Sys2Proof/Machine/Issue.lean ====
section
/-! DEFINITION. How one step of an agent runs on the block: a command word is decoded and its command executed, or answered
`ILLEGAL_COMMAND` (R61, R154); a port agent's step is taken (R169). -/

namespace Sys2Proof.Machine

/-- The fields of the response to an illegal word, by its opcode (R63, R154). -/
def illegalPayload (op : Byte) (v : Sched) : Payload :=
  if op = OP_MSG_PUSH then .written 0
  else if op = OP_MSG_POP then .consumed 0
  else if op = OP_CTL_INIT ∨ op = OP_CTL_PROC then .sched v
  else .none

/-- The answer to an illegal command word: a response and nothing else (R61, R154). -/
def illegalWord (word : Half) (s : State) : State :=
  s.respond ⟨.illegalCommand, illegalPayload (opField word) s.sched⟩

/-- The issuer's step (R5, R154): every word is one of the eight commands or illegal. -/
def issue (word : Half) (data : List Byte) (s : State) : Host.Outcome State Fault Refusal :=
  match decode word data with
  | .ok i => exec i s
  | .error _ => .next (illegalWord word s)

/-- One step of one agent (R169). -/
def runPortStep (e : PortStep) (s : State) : Host.Outcome State Fault Refusal :=
  match e with
  | .command word data => issue word data s
  | .rxPush b => .next (rxPush s.params b s)
  | .txPop => txPop s

/-- The first of the steps still to come, taken off the list; none when no agent has a step. -/
def takePending (s : State) : Option (PortStep × State) :=
  match s.pending with
  | [] => none
  | e :: rest => some (e, s.withPending rest)

/-- The next step of the total order of R46; with no step to come the block keeps its state (R179). -/
def runNext (s : State) : Host.Outcome State Fault Refusal :=
  match takePending s with
  | none => .next s
  | some (e, t) => runPortStep e t

/-- The command of a table word comes next. -/
def fetchFirst (nbits w : Nat) (s : State) : State :=
  s.withPending (.command (tableCommand s.params nbits w).1 (tableCommand s.params nbits w).2 :: s.pending)

end Sys2Proof.Machine
end

