-- ==== Sys2Proof/Machine/Step.lean ====
section
/-! DEFINITION. One step of the machine: the next agent's step in the total order of R46. -/

namespace Sys2Proof.Machine

/-- One step (R42, R46). -/
def step (s : State) : Host.Outcome State Fault Refusal := runNext s

/-- `s` with the command of a table word as the very next step (assumption 6, DESIGN CHOICE). -/
def State.withFetchWord (s : State) (nbits w : Nat) : State := fetchFirst nbits w s

end Sys2Proof.Machine
end

