-- ==== Sys2Proof/Machine/Assembler.lean ====
section
/-! DEFINITION. The assembler syntax of R65 and the pseudo-instruction `POP_ALL` of R66: from the characters of one line to a command. -/

namespace Sys2Proof.Machine

/-- The tokens of a line. -/
inductive Token where
  | word (w : List Char)
  | comma
  | lbrack
  | rbrack
deriving DecidableEq, Repr

/-- What a line stands for. -/
inductive AsmLine where
  /-- Nothing but blanks and a comment. -/
  | blank
  | command (i : Instr)
  /-- `POP_ALL` (R66). -/
  | popAll
deriving DecidableEq, Repr

/-- The word read so far, last character first, as a token. -/
def flushWord (acc : List Char) : List Token := if acc = [] then [] else [.word acc.reverse]

/-- The tokens of a line; a comment runs from `;` to its end (R65). -/
def lexLine : List Char → List Char → List Token
  | [], acc => flushWord acc
  | c :: rest, acc =>
    if c = ';' then flushWord acc
    else if c = ' ' ∨ c = '\t' then flushWord acc ++ lexLine rest []
    else if c = ',' then flushWord acc ++ .comma :: lexLine rest []
    else if c = '[' then flushWord acc ++ .lbrack :: lexLine rest []
    else if c = ']' then flushWord acc ++ .rbrack :: lexLine rest []
    else lexLine rest (c :: acc)

/-- The value of a hexadecimal digit, of either case (assumption 12, DESIGN CHOICE). -/
def hexDigit? (c : Char) : Option Nat :=
  if '0'.toNat ≤ c.toNat ∧ c.toNat ≤ '9'.toNat then some (c.toNat - '0'.toNat)
  else if 'A'.toNat ≤ c.toNat ∧ c.toNat ≤ 'F'.toNat then some (c.toNat - 'A'.toNat + 10)
  else if 'a'.toNat ≤ c.toNat ∧ c.toNat ≤ 'f'.toNat then some (c.toNat - 'a'.toNat + 10)
  else none

/-- The digits `l` in the given base, after the value `n`. -/
def digits? (base : Nat) : List Char → Nat → Option Nat
  | [], n => some n
  | c :: rest, n =>
    match hexDigit? c with
    | some d => if d < base then digits? base rest (n * base + d) else none
    | none => none

/-- A number below 256, decimal or with the prefix `0x` (R65). -/
def number? (w : List Char) : Option Byte :=
  let n := match w with
    | '0' :: 'x' :: c :: rest => digits? 16 (c :: rest) 0
    | c :: rest => digits? 10 (c :: rest) 0
    | [] => none
  n.bind fun n => if n < 256 then some (BitVec.ofNat 8 n) else none

/-- A body byte: one or two hexadecimal digits (R65; assumption 12, DESIGN CHOICE). -/
def bodyByte? (w : List Char) : Option Byte :=
  if w.length = 1 ∨ w.length = 2 then (digits? 16 w 0).map (BitVec.ofNat 8) else none

/-- The name of a register in R151. -/
def regName : RegSel → String
  | .sched => "SCHED"
  | .wdgAge => "WDG_AGE"
  | .counter .popOk => "CNT_POP_OK"
  | .counter .unknownId => "CNT_UNKNOWN_ID"
  | .counter .schema => "CNT_SCHEMA"
  | .counter .checksum => "CNT_CHECKSUM"
  | .counter .pushOk => "CNT_PUSH_OK"
  | .counter .lenOverflow => "CNT_LEN_OVERFLOW"
  | .counter .noSpace => "CNT_NO_SPACE"
  | .counter .rxDrop => "CNT_RX_DROP"
  | .rxqLen => "RXQ_LEN"
  | .txqLen => "TXQ_LEN"
  | .mboxFresh => "MBOX_FRESH"
  | .cref .cur j => "CREF" ++ toString j.val
  | .cref .prev j => "CREFP" ++ toString j.val
  | .cmeas .cur j => "CMEAS" ++ toString j.val
  | .cmeas .prev j => "CMEASP" ++ toString j.val
  | .wmeas .cur j => "WMEAS" ++ toString j.val
  | .wmeas .prev j => "WMEASP" ++ toString j.val
  | .gref .cur a => "GREF" ++ toString a.val
  | .gref .prev a => "GREFP" ++ toString a.val
  | .gpos .cur a => "GPOS" ++ toString a.val
  | .gpos .prev a => "GPOSP" ++ toString a.val
  | .grate .cur a => "GRATE" ++ toString a.val
  | .grate .prev a => "GRATEP" ++ toString a.val
  | .cmdW j => "CMD_W" ++ toString j.val
  | .cmdG a => "CMD_G" ++ toString a.val
  | .pid i .iacc => "PID" ++ toString i.val ++ "_IACC"
  | .pid i .perr => "PID" ++ toString i.val ++ "_PERR"
  | .pid i .pmeas => "PID" ++ toString i.val ++ "_PMEAS"
  | .pid i .out => "PID" ++ toString i.val ++ "_OUT"

/-- A kind as a number or a name of R64. -/
def kindOperand? (w : List Char) : Option Byte :=
  match number? w with
  | some b => some b
  | none => (kindNames.findIdx? fun n => n.toList == w).map (BitVec.ofNat 8)

/-- The selector whose register has the given name. -/
def selNamed? (w : List Char) : Option Byte :=
  ((List.range 256).find? fun n => ((selOf? (BitVec.ofNat 8 n)).map fun r => (regName r).toList) == some w).map (BitVec.ofNat 8)

/-- A register as a number or a name of R151. -/
def selOperand? (w : List Char) : Option Byte :=
  match number? w with
  | some b => some b
  | none => selNamed? w

/-- The bytes of a body up to its closing bracket, which ends the line. -/
def body? : List Token → Option (List Byte)
  | [.rbrack] => some []
  | .word w :: rest =>
    match bodyByte? w, body? rest with
    | some b, some l => some (b :: l)
    | _, _ => none
  | _ => none

/-- The operands of each mnemonic (R65). R65 names three forms and not which mnemonic takes which: the model gives each mnemonic the one form that the
operands of R60 ask for, and takes no other (assumption 12, DESIGN CHOICE). -/
def operands? (mnemonic : List Char) (ops : List Token) : Option AsmLine :=
  match ops with
  | [] =>
    if mnemonic = "NOP".toList then some (.command .nop)
    else if mnemonic = "MSG_POP".toList then some (.command .msgPop)
    else if mnemonic = "CTL_INIT".toList then some (.command .ctlInit)
    else if mnemonic = "CTL_PROC".toList then some (.command .ctlProc)
    else if mnemonic = "POP_ALL".toList then some .popAll
    else none
  | [.word w] =>
    if mnemonic = "REG_BY_ID".toList then (number? w).map fun b => .command (.regById b)
    else if mnemonic = "REG_BY_KIND".toList then (kindOperand? w).map fun b => .command (.regByKind b)
    else if mnemonic = "RD_REG".toList then (selOperand? w).map fun b => .command (.rdReg b)
    else none
  | .word w :: .comma :: .lbrack :: rest =>
    if mnemonic = "MSG_PUSH".toList then
      match kindOperand? w, body? rest with
      | some b, some l => some (.command (.msgPush b l))
      | _, _ => none
    else none
  | _ => none

/-- One line of assembly (R65); none when it is not of the syntax. -/
def assemble (line : List Char) : Option AsmLine :=
  match lexLine line [] with
  | [] => some .blank
  | .word m :: ops => operands? m ops
  | _ => none

end Sys2Proof.Machine
end

