-- ==== Sys2Proof/Safety.lean ====
section
/-! DEFINITION. What counts as a good state and a good run: the invariant of the block (R18, R19, R120, R131, R136, R138), the group
writes of a tick (R100), the condition under which a tick completes (R119), and runs of ticks (R143). -/

namespace Sys2Proof.Machine

/-- R120 for the bank: every accumulator and every output is within its instance's limit. -/
def bankWithin (P : Params) (bank : Vector PidRegs 11) : Prop :=
  ∀ i : PidIx, P.num.within bank[i].iacc (P.cfg i).ilim = true ∧ P.num.within bank[i].out (P.cfg i).olim = true

/-- R120 for the commanded outputs: each is within its instance's output limit. -/
def outputsWithin (P : Params) (s : State) : Prop :=
  (∀ j : Fin 4, P.num.within s.cmdW[j] (P.cfg (PidIx.wheel j)).olim = true) ∧
    ∀ a : Fin 2, P.num.within s.cmdG[a] (P.cfg (PidIx.gimbalRate a)).olim = true

/-- The six commanded outputs are +0 (R136). -/
def outputsZero (s : State) : Prop := s.cmdW = Vector.replicate 4 NUM.zero ∧ s.cmdG = Vector.replicate 2 NUM.zero

/-- The control side is as `CTL_INIT` leaves it (R131). -/
def controlZero (s : State) : Prop :=
  s.groups = Groups.zero ∧ s.pid = Vector.replicate 11 PidRegs.zero ∧ outputsZero s ∧ s.wdgAge = 0

/-- The invariant of the block. -/
structure Inv (s : State) : Prop where
  /-- R18: `|RXQ| <= RXQ_CAP`. -/
  rxFits : s.rxq.length ≤ s.params.rxqCap
  /-- R18: `|TXQ| <= TXQ_CAP`. -/
  txFits : s.txq.length ≤ s.params.txqCap
  /-- R19: `MBOX[k].body` has `len_k` bytes. -/
  mailFits : ∀ k : Kind, s.mbox[k].body.length = lenOf s.params k
  /-- R120: the PID registers are within their limits once they hold a value. -/
  bank : s.sched ≠ .uninitialized → bankWithin s.params s.pid
  /-- R120: the commanded outputs are within their limits once they hold a value. -/
  outputs : s.sched ≠ .uninitialized → outputsWithin s.params s
  /-- R136: in `Faulted` the commanded outputs are +0. -/
  faultedZero : s.sched = .faulted → outputsZero s
  /-- R138: in `Running` the watchdog is not stale. -/
  runningFresh : s.sched = .running → s.wdgAge.toNat ≤ ERR_TSK_TMS
  /-- R131, R199: in `Ready` the control side is as `CTL_INIT` left it. -/
  readyZero : s.sched = .ready → controlZero s

/-- The group writes of the tick that starts in `s`: the fresh kinds in ascending order, each in `ROUTE`'s list order (R100, R103). -/
def tickWrites (s : State) : List GroupWrite :=
  kinds.flatMap fun k => if s.mbox[k].fresh then s.params.route k s.mbox[k].body else []

/-- The side-channel updates of the tick that starts in `s`, in the same order (R104). -/
def tickSide (s : State) : SideState :=
  kinds.foldl (fun x k => if s.mbox[k].fresh then s.params.side k s.mbox[k].body x else x) s.sideSt

/-- What PID instance `i` answers in the tick that starts in `s`, with setpoint `sp` and measurement `m`: its new output, or the one it
holds when `DT > 0` is false (R113, R114). -/
abbrev stepOutput (s : State) (i : PidIx) (sp m : NUM) : NUM :=
  if s.params.num.gt s.params.dt NUM.zero then (pidNext s.params.num (s.params.cfg i) s.pid[i] sp m s.params.dt).out else s.pid[i].out

/-- That step gives no NaN: neither the saturated accumulator nor the output is one (R119). -/
abbrev stepGivesNumber (s : State) (i : PidIx) (sp m : NUM) : Prop :=
  s.params.num.gt s.params.dt NUM.zero = true →
    s.params.num.isNaN (pidNext s.params.num (s.params.cfg i) s.pid[i] sp m s.params.dt).iacc = false ∧
      s.params.num.isNaN (pidNext s.params.num (s.params.cfg i) s.pid[i] sp m s.params.dt).out = false

/-- No PID step of the tick that starts in `s` gives a NaN (R119). In `Faulted` no step runs (R135); otherwise each of the eleven steps is looked at,
wired as R122 and R123 say, from the groups as the tick's writes leave them. -/
abbrev TickDefined (s : State) : Prop :=
  s.sched = .faulted ∨
    let g := (tickWrites s).foldl writeCur s.groups
    let vc : Fin 3 → NUM := fun j => stepOutput s (PidIx.chassis j) g.cref.cur[j] g.cmeas.cur[j]
    let wt := mecIK s.params #v[vc 0, vc 1, vc 2]
    let rs : Fin 2 → NUM := fun a => stepOutput s (PidIx.gimbalPos a) g.gref.cur[a] g.gpos.cur[a]
    (∀ j : Fin 3, stepGivesNumber s (PidIx.chassis j) g.cref.cur[j] g.cmeas.cur[j]) ∧
      (∀ j : Fin 4, stepGivesNumber s (PidIx.wheel j) wt[j] g.wmeas.cur[j]) ∧
      ∀ a : Fin 2, stepGivesNumber s (PidIx.gimbalPos a) g.gref.cur[a] g.gpos.cur[a] ∧
        stepGivesNumber s (PidIx.gimbalRate a) (rs a) g.grate.cur[a]

/-- The command word `w` with the data operand `d` is illegal: the six conditions of R61, written out on the word's own bits. -/
def illegalPerR61 (P : Params) (w : Half) (d : List Byte) : Prop :=
  let op : Byte := w.extractLsb' 0 8
  let s : Nat := (w.extractLsb' 8 8).toNat
  op ∉ [0x00#8, 0x01#8, 0x02#8, 0x10#8, 0x11#8, 0x20#8, 0x21#8, 0x30#8] ∨
    (op ∈ [0x00#8, 0x11#8, 0x20#8, 0x21#8] ∧ s ≠ 0) ∨
    (op ∈ [0x02#8, 0x10#8] ∧ 20 < s) ∨
    (op = 0x30#8 ∧ ((0x0D ≤ s ∧ s ≤ 0x0F) ∨ (0x36 ≤ s ∧ s ≤ 0x3F) ∨ 0x6C ≤ s)) ∨
    (op = 0x10#8 ∧ ∃ k : Kind, k.val = s ∧ d.length ≠ (P.registry k).len.toNat) ∨
    (op ≠ 0x10#8 ∧ d ≠ [])

/-- In the state `s`, `RD_REG` of the selector `n` completes with the value `v` and changes nothing but the response. -/
def readsAs (s : State) (n : Nat) (v : Payload) : Prop :=
  ∀ sel : Byte, sel.toNat = n → exec (.rdReg sel) s = .next { s with response := some ⟨.ok, v⟩ }

/-- The next step is the command `i`. -/
def nextIs (i : Instr) (s : State) : Prop := ∃ w d rest, s.pending = .command w d :: rest ∧ decode w d = .ok i

/-- A run from `s` to `t` with `n` ticks in it, none of which writes a group, and any number of other steps of any agent before, between and after them,
none of which is `CTL_INIT` (R143). -/
inductive QuietRun (s : State) : Nat → State → Prop where
  | start : QuietRun s 0 s
  | tick {n : Nat} {t u : State} : QuietRun s n t → nextIs .ctlProc t → tickWrites t = [] → step t = .next u → QuietRun s (n + 1) u
  | other {n : Nat} {t u : State} : QuietRun s n t → ¬ nextIs .ctlProc t → ¬ nextIs .ctlInit t → step t = .next u → QuietRun s n u

end Sys2Proof.Machine
end

