-- ==== Sys2Proof/Certificates/Slice0/Obligations.lean ====
section
/-! DEFINITION. The statements about the block. A frame is written as an equation `t = {s with f := t.f}`: every piece of state that the
equation does not name (registers, queues, mailbox, outputs, tag and ports alike) is unchanged. No statement names a value of an
open parameter: each holds for every configuration a state can have. -/

open Sys2Proof Sys2Proof.Machine

/-! ## Command words (R58 to R62) -/

/-- R60: words written out bit by bit from the patterns of the opcode map decode to the commands they stand for. -/
def Obligations.SampleWordsDecode : Prop :=
  decode 0b0000000000000000#16 [] = .ok .nop ∧
  decode 0b0000010000000001#16 [] = .ok (.regById 0x04) ∧
  decode 0b0001010000000010#16 [] = .ok (.regByKind 20) ∧
  decode 0b0000110000010000#16 [0x78, 0x56, 0x34, 0x12] = .ok (.msgPush 12 [0x78, 0x56, 0x34, 0x12]) ∧
  decode 0b0000000000010001#16 [] = .ok .msgPop ∧
  decode 0b0000000000100000#16 [] = .ok .ctlInit ∧
  decode 0b0000000000100001#16 [] = .ok .ctlProc ∧
  decode 0b0110101100110000#16 [] = .ok (.rdReg 0x6B)

/-- R58 to R61: a command whose word is legal is read back from its word and data operand, at every operand value. -/
def Obligations.DecodeOfEncodeIsIdentity : Prop :=
  ∀ i : Instr, i.wordLegal = true → decode (encode i).1 (encode i).2 = .ok i

/-- R58 to R61: a word that decodes is the word of the command it decodes to, so no bit of it is dropped. -/
def Obligations.EncodeOfDecodeIsIdentity : Prop :=
  ∀ (w : Half) (d : List Byte) (i : Instr), decode w d = .ok i → encode i = (w, d) ∧ i.wordLegal = true

/-- R60: every command word matches at most one row, and a word that decodes matches the row of its command. -/
def Obligations.WordMatchesAtMostOneRow : Prop :=
  (∀ (w : Half), ∀ a ∈ opRows, ∀ b ∈ opRows, a.matchesWord w = true → b.matchesWord w = true → a = b) ∧
  ∀ (w : Half) (d : List Byte) (i : Instr), decode w d = .ok i →
    ∃ r ∈ opRows, r.mnemonic = mnemonicOf i ∧ r.matchesWord w = true

/-- R61, R154: an illegal word returns `ILLEGAL_COMMAND` with the field its opcode's response has and does nothing else; every other
word decodes to a command that is legal under the block's configuration. An empty `d` is no data operand (assumption 8, DESIGN CHOICE), and a
`REG_BY_ID` with one is illegal (assumption 10, DEDUCED). -/
def Obligations.IllegalWordOnlyResponds : Prop :=
  ∀ (s : State) (w : Half) (d : List Byte),
    (illegalPerR61 s.params w d →
      issue w d s = .next { s with response := some ⟨.illegalCommand,
        if w.extractLsb' 0 8 = 0x10#8 then .written 0
        else if w.extractLsb' 0 8 = 0x11#8 then .consumed 0
        else if w.extractLsb' 0 8 = 0x20#8 ∨ w.extractLsb' 0 8 = 0x21#8 then .sched s.sched
        else .none⟩ }) ∧
    (¬ illegalPerR61 s.params w d → ∃ i, decode w d = .ok i ∧ i.wellFormed s.params = true)

/-- R151: the selector map names each register once, and no register is named by an unlisted selector. -/
def Obligations.SelectorMapIsExact : Prop :=
  (∀ r : RegSel, selOf? (selByte r) = some r) ∧
  ∀ sel : Byte, (selOf? sel).isSome = true ↔
    (sel.toNat ≤ 0x0C ∨ (0x10 ≤ sel.toNat ∧ sel.toNat ≤ 0x35) ∨ (0x40 ≤ sel.toNat ∧ sel.toNat ≤ 0x6B))

/-- R65, R66: the spec's own example lines assemble to the commands they show. -/
def Obligations.AssemblerExamples : Prop :=
  assemble "REG_BY_ID 0x04".toList = some (.command (.regById 0x04)) ∧
  assemble "REG_BY_KIND ODO".toList = some (.command (.regByKind 3)) ∧
  assemble "MSG_PUSH ODO, [01 00 00 00 DC 05 00 00 00 00 00 00 00 00 00 00]".toList =
    some (.command (.msgPush 3 [0x01, 0, 0, 0, 0xDC, 0x05, 0, 0, 0, 0, 0, 0, 0, 0, 0, 0])) ∧
  assemble "MSG_POP".toList = some (.command .msgPop) ∧
  assemble "CTL_INIT".toList = some (.command .ctlInit) ∧
  assemble "CTL_PROC".toList = some (.command .ctlProc) ∧
  assemble "RD_REG CMD_W1".toList = some (.command (.rdReg 0x31)) ∧
  assemble "POP_ALL ; until INCOMPLETE".toList = some .popAll

/-! ## One step (R42, R46, R169) -/

/-- R5, R42, R61, R154: when the next step is the issuer's command word, a step issues that word at the state with it taken off the list of steps
to come (assumption 6, DESIGN CHOICE). A word that decodes to `i` runs `exec i` there; a word that does not decode, whatever its reason, is answered
`ILLEGAL_COMMAND` with the field its opcode's response has, and changes nothing else. -/
def Obligations.StepRunsDecodedCommand : Prop :=
  ∀ (s : State) (w : Half) (d : List Byte) (rest : List PortStep), s.pending = .command w d :: rest →
    let u := { s with pending := rest }
    step s = issue w d u ∧
    (∀ i : Instr, decode w d = .ok i → step s = exec i u) ∧
    (∀ e : DecodeError, decode w d = .error e →
      step s = .next { u with response := some ⟨.illegalCommand,
        if w.extractLsb' 0 8 = 0x10#8 then .written 0
        else if w.extractLsb' 0 8 = 0x11#8 then .consumed 0
        else if w.extractLsb' 0 8 = 0x20#8 ∨ w.extractLsb' 0 8 = 0x21#8 then .sched s.sched
        else .none⟩ })

/-- R32: a byte from the link enters `RXQ` at its tail, or is dropped and counted when `RXQ` is full. -/
def Obligations.RxPushAppendsOrDrops : Prop :=
  ∀ (s : State) (b : Byte) (rest : List PortStep), s.pending = .rxPush b :: rest →
    (s.rxq.length < s.params.rxqCap → step s = .next { s with pending := rest, rxq := s.rxq ++ [b] }) ∧
    (s.params.rxqCap ≤ s.rxq.length →
      step s = .next { s with pending := rest, cnt := { s.cnt with rxDrop := s.cnt.rxDrop + 1 } })

/-- R35: the transmit consumer takes the oldest byte of `TXQ` onto the link; with `TXQ` empty the step is not enabled. -/
def Obligations.TxPopTakesOldestByte : Prop :=
  ∀ (s : State) (rest : List PortStep), s.pending = .txPop :: rest →
    (∀ (b : Byte) (q : List Byte), s.txq = b :: q →
      step s = .next { s with pending := rest, txq := q, link := s.link ++ [b] }) ∧
    (s.txq = [] → step s = .refused .txPopNotEnabled)

/-- R31, R33, R47 (a): a step takes bytes off the front of `RXQ` or puts one at its tail, and neither reorders nor changes a byte. -/
def Obligations.ReceiveQueueIsFifo : Prop :=
  ∀ s t : State, step s = .next t →
    ∃ (n : Nat) (arrived : List Byte), n ≤ s.rxq.length ∧ t.rxq = s.rxq.drop n ++ arrived ∧ (n = 0 ∨ arrived = []) ∧
      (arrived = [] ∨ ∃ b rest, s.pending = .rxPush b :: rest ∧ arrived = [b])

/-- R47 (c): what has left on the link followed by what waits in `TXQ` grows by whole frames only, each contiguous and in command
order. -/
def Obligations.LinkCarriesWholeFramesInOrder : Prop :=
  ∀ s t : State, step s = .next t →
    t.link ++ t.txq = s.link ++ s.txq ∨
    ∃ (k : Kind) (b : Byte) (body : List Byte), b.toNat = k.val ∧ nextIs (.msgPush b body) s ∧
      body.length = (s.params.registry k).len.toNat ∧
      t.link ++ t.txq = s.link ++ s.txq ++ encodeFrame s.params k body

/-! ## The head and the frame (R51 to R55, R81) -/

/-- R52, R53: the head in wire order, and the two functions are each other's inverses. -/
def Obligations.HeadPackAndUnpackAreInverse : Prop :=
  (∀ h : Head, headPack h = [h.id, h.len, h.token.extractLsb' 0 8, h.token.extractLsb' 8 8] ∧ headUnpack (headPack h) = h) ∧
  ∀ a b c d : Byte, headUnpack [a, b, c, d] = ⟨a, b, d ++ c⟩ ∧ headPack (headUnpack [a, b, c, d]) = [a, b, c, d]

/-- R54, R55, R81: a frame is the registry's head, the body verbatim and the CRC of head and body, low byte first. -/
def Obligations.FrameLayout : Prop :=
  ∀ (P : Params) (k : Kind) (body : List Byte), body.length = (P.registry k).len.toNat →
    let r := P.registry k
    let head := [r.id, r.len, r.token.extractLsb' 0 8, r.token.extractLsb' 8 8]
    let c := P.crc16 (head ++ body)
    encodeFrame P k body = head ++ body ++ [c.extractLsb' 0 8, c.extractLsb' 8 8] ∧
      (encodeFrame P k body).length = 6 + r.len.toNat

/-! ## The registry (R70 to R78) and the configuration (R162) -/

/-- R72, R74: `REG_BY_ID` answers the row whose id it is given, and `NOT_FOUND` when there is none; it changes nothing else. -/
def Obligations.RegByIdAnswersItsRow : Prop :=
  ∀ s : State,
    (∀ k : Kind, let r := s.params.registry k
      exec (.regById r.id) s = .next { s with response := some ⟨.ok, .row k r.id r.len r.token r.scale⟩ }) ∧
    ∀ id : Byte, (∀ k : Kind, (s.params.registry k).id ≠ id) →
      exec (.regById id) s = .next { s with response := some ⟨.notFound, .none⟩ }

/-- R73, R75: `REG_BY_KIND` answers row `S` for `S` in 0..20 and `ILLEGAL_COMMAND` above; it changes nothing else. -/
def Obligations.RegByKindAnswersItsRow : Prop :=
  ∀ (s : State) (b : Byte),
    (∀ k : Kind, b.toNat = k.val → let r := s.params.registry k
      exec (.regByKind b) s = .next { s with response := some ⟨.ok, .row k r.id r.len r.token r.scale⟩ }) ∧
    (20 < b.toNat → exec (.regByKind b) s = .next { s with response := some ⟨.illegalCommand, .none⟩ })

/-- R71, R111, R36, R162 (and R7, R67, R77; assumption 5, DESIGN CHOICE): parameters are admitted exactly under the spec's conditions; otherwise
the configuration raises `MF_CONFIG`, before any step: no step raises it. -/
def Obligations.ConfigurationIsCheckedOnce : Prop :=
  ∀ P : Params,
    (((∀ i j : Kind, (P.registry i).id = (P.registry j).id → i = j) ∧
        (∀ i j : Kind, (P.registry i).token = (P.registry j).token → i = j) ∧
        (∀ k : Kind, ((P.bodyLayout k).map BodyField.bytes).sum = (P.registry k).len.toNat) ∧
        (∀ (k : Kind) (x : NUM), (P.registry k).scale = some x →
          P.num.isFinite x = true ∧ (P.num.gt x NUM.zero = true ∨ P.num.gt NUM.zero x = true)) ∧
        (P.registry Kind.ODO).scale = some (P.num.decimal 1 3) ∧ (P.registry Kind.ZGYRO).scale = some (P.num.decimal 1 (-2)) ∧
        (∀ i : PidIx, P.num.isFinite (P.cfg i).kp = true ∧ P.num.isFinite (P.cfg i).ki = true ∧ P.num.isFinite (P.cfg i).kd = true ∧
          P.num.isFinite (P.cfg i).ilim = true ∧ P.num.gt NUM.zero (P.cfg i).ilim = false ∧
          P.num.isFinite (P.cfg i).olim = true ∧ P.num.gt NUM.zero (P.cfg i).olim = false) ∧
        256 ≤ P.rxqCap ∧ 256 ≤ P.txqCap ∧ 0 < P.ctlPeriodMs ∧ P.msgTypeIdx Kind.VRC = 5 ∧ P.msgTypeIdx Kind.VHC = 5) ↔
      ∃ C : Config, configure P = .ok C ∧ C.params = P) ∧
    ((¬ ∃ C : Config, configure P = .ok C) → configure P = .error .mfConfig) ∧
    ∀ s : State, step s ≠ .fault .mfConfig

/-- R67, R77: in every block `VRC` and `VHC` share the type bit 5, and the scales of `ODO` and `ZGYRO` are 1e3 and 1e-2. -/
def Obligations.KnownTypeBitsAndScales : Prop :=
  ∀ s : State, typeBit s.params Kind.VRC = 0x20#32 ∧ typeBit s.params Kind.VHC = 0x20#32 ∧
    (s.params.registry Kind.ODO).scale = some (s.params.num.decimal 1 3) ∧
    (s.params.registry Kind.ZGYRO).scale = some (s.params.num.decimal 1 (-2))

/-! ## The Frame Codec (R82 to R97) -/

/-- R82: the four outcomes of `MSG_PUSH`, in the order of the checks, each with everything it changes. -/
def Obligations.MsgPushOutcomes : Prop :=
  ∀ (s : State) (b : Byte) (body : List Byte),
    (20 < b.toNat → exec (.msgPush b body) s = .next { s with response := some ⟨.illegalCommand, .written 0⟩ }) ∧
    ∀ k : Kind, b.toNat = k.val →
      let len := (s.params.registry k).len.toNat
      (body.length ≠ len → exec (.msgPush b body) s = .next { s with response := some ⟨.illegalCommand, .written 0⟩ }) ∧
      (body.length = len → 256 < 6 + len →
        exec (.msgPush b body) s = .next { s with
          cnt := { s.cnt with lenOverflow := s.cnt.lenOverflow + 1 }, response := some ⟨.lengthOverflow, .written 0⟩ }) ∧
      (body.length = len → 6 + len ≤ 256 → s.params.txqCap - s.txq.length < 6 + len →
        exec (.msgPush b body) s = .next { s with
          cnt := { s.cnt with noSpace := s.cnt.noSpace + 1 }, response := some ⟨.noSpace, .written 0⟩ }) ∧
      (body.length = len → 6 + len ≤ 256 → 6 + len ≤ s.params.txqCap - s.txq.length →
        exec (.msgPush b body) s = .next { s with
          txq := s.txq ++ encodeFrame s.params k body,
          cnt := { s.cnt with pushOk := s.cnt.pushOk + 1 }, response := some ⟨.ok, .written (6 + len)⟩ })

/-- R83: fewer than 6 bytes are `INCOMPLETE`, whatever they are. -/
def Obligations.MsgPopUnderrun : Prop :=
  ∀ s : State, s.rxq.length < 6 → exec .msgPop s = .next { s with response := some ⟨.incomplete, .consumed 0⟩ }

/-- R84: an id no row has is `UNKNOWN_ID` and exactly one byte is consumed. -/
def Obligations.MsgPopUnknownId : Prop :=
  ∀ (s : State) (id : Byte) (q : List Byte), s.rxq = id :: q → 6 ≤ s.rxq.length → (∀ k : Kind, (s.params.registry k).id ≠ id) →
    exec .msgPop s = .next { s with
      rxq := q, cnt := { s.cnt with unknownId := s.cnt.unknownId + 1 }, response := some ⟨.unknownId, .consumed 1⟩ }

/-- R85: a length or a token that is not the row's is `SCHEMA_MISMATCH` and exactly one byte is consumed. -/
def Obligations.MsgPopSchemaMismatch : Prop :=
  ∀ (s : State) (k : Kind) (len t0 t1 : Byte) (q : List Byte), let r := s.params.registry k
    s.rxq = r.id :: len :: t0 :: t1 :: q → 6 ≤ s.rxq.length → (len ≠ r.len ∨ (t1 ++ t0 : Half) ≠ r.token) →
    exec .msgPop s = .next { s with
      rxq := len :: t0 :: t1 :: q, cnt := { s.cnt with schema := s.cnt.schema + 1 },
      response := some ⟨.schemaMismatch, .consumed 1⟩ }

/-- R86: a schema-valid head whose frame has not all arrived is `INCOMPLETE` and nothing is consumed. -/
def Obligations.MsgPopIncompleteFrame : Prop :=
  ∀ (s : State) (k : Kind) (q : List Byte), let r := s.params.registry k
    s.rxq = [r.id, r.len, r.token.extractLsb' 0 8, r.token.extractLsb' 8 8] ++ q → s.rxq.length < 6 + r.len.toNat →
    exec .msgPop s = .next { s with response := some ⟨.incomplete, .consumed 0⟩ }

/-- R87: a whole frame whose CRC on the wire is not that of its head and body is `CHECKSUM_MISMATCH` and the frame is consumed. -/
def Obligations.MsgPopChecksumMismatch : Prop :=
  ∀ (s : State) (k : Kind) (body : List Byte) (c0 c1 : Byte) (q : List Byte), let r := s.params.registry k
    let covered := [r.id, r.len, r.token.extractLsb' 0 8, r.token.extractLsb' 8 8] ++ body
    body.length = r.len.toNat → s.rxq = covered ++ [c0, c1] ++ q → s.params.crc16 covered ≠ (c1 ++ c0 : Half) →
    exec .msgPop s = .next { s with
      rxq := q, cnt := { s.cnt with checksum := s.cnt.checksum + 1 },
      response := some ⟨.checksumMismatch, .consumed (6 + r.len.toNat)⟩ }

/-- R88: a whole frame with the right CRC is `OK`: the frame is consumed, its body enters the mailbox of its kind, fresh, and the
response carries head and body. -/
def Obligations.MsgPopSuccess : Prop :=
  ∀ (s : State) (k : Kind) (body : List Byte) (c0 c1 : Byte) (q : List Byte), let r := s.params.registry k
    let covered := [r.id, r.len, r.token.extractLsb' 0 8, r.token.extractLsb' 8 8] ++ body
    body.length = r.len.toNat → s.rxq = covered ++ [c0, c1] ++ q → s.params.crc16 covered = (c1 ++ c0 : Half) →
    exec .msgPop s = .next { s with
      rxq := q, mbox := s.mbox.set k.val ⟨true, body⟩, cnt := { s.cnt with popOk := s.cnt.popOk + 1 },
      response := some ⟨.ok, .message (6 + r.len.toNat) k r.id r.len r.token body⟩ }

/-- R33, R90, R93: `MSG_POP` always completes; it takes bytes off the front of `RXQ` and writes the mailbox, the counters and the response, and
nothing else. -/
def Obligations.MsgPopFrame : Prop :=
  ∀ s : State, ∃ t : State, exec .msgPop s = .next t ∧
    t = { s with rxq := t.rxq, mbox := t.mbox, cnt := t.cnt, response := t.response } ∧
    (∃ n, t.rxq = s.rxq.drop n) ∧ (lastStatus t ≠ some .ok → t.mbox = s.mbox)

/-- R94: a frame that `MSG_PUSH` appended, delivered to an `RXQ` that holds nothing before it, is decoded to the kind, the head and the body
that were pushed, and exactly its bytes are consumed. -/
def Obligations.PushThenPopRoundTrip : Prop :=
  ∀ (s t u : State) (b : Byte) (k : Kind) (body f q : List Byte), let r := s.params.registry k
    b.toNat = k.val → exec (.msgPush b body) s = .next t → lastStatus t = some .ok → t.txq = s.txq ++ f →
    u.config = s.config → u.rxq = f ++ q →
    exec .msgPop u = .next { u with
      rxq := q, mbox := u.mbox.set k.val ⟨true, body⟩, cnt := { u.cnt with popOk := u.cnt.popOk + 1 },
      response := some ⟨.ok, .message (6 + r.len.toNat) k r.id r.len r.token body⟩ }

/-- R95: a single flipped bit in the id of a frame gives `UNKNOWN_ID` or `SCHEMA_MISMATCH`, one in the rest of the head `SCHEMA_MISMATCH`, and one
in the body `CHECKSUM_MISMATCH` when the CRC of the changed bytes differs from that of the frame's. -/
def Obligations.FlippedBitOutcomes : Prop :=
  ∀ (s : State) (k : Kind) (body : List Byte) (j : Nat) (i : Nat), let f := encodeFrame s.params k body
    let f' := f.modify j (fun x => x ^^^ (1#8 <<< i))
    body.length = (s.params.registry k).len.toNat → i < 8 → s.rxq = f' →
    ∃ t, exec .msgPop s = .next t ∧
      (j = 0 → lastStatus t = some .unknownId ∨ lastStatus t = some .schemaMismatch) ∧
      (1 ≤ j → j < 4 → lastStatus t = some .schemaMismatch) ∧
      (4 ≤ j → j < 4 + body.length → s.params.crc16 (f'.take (4 + body.length)) ≠ s.params.crc16 (f.take (4 + body.length)) →
        lastStatus t = some .checksumMismatch)

/-- R96: a stray byte before a valid frame is consumed alone, and the next `MSG_POP` decodes the frame, unless the byte and the frame's first
three bytes form the head of some row. -/
def Obligations.ResyncAfterStrayByte : Prop :=
  ∀ (s : State) (x : Byte) (k : Kind) (body : List Byte), let r := s.params.registry k
    body.length = r.len.toNat → s.rxq = x :: encodeFrame s.params k body →
    (∀ j : Kind, ¬ ((s.params.registry j).id = x ∧ (s.params.registry j).len = r.id ∧
      (s.params.registry j).token = (r.token.extractLsb' 0 8 ++ r.len : Half))) →
    ∃ t v, exec .msgPop s = .next t ∧ (lastStatus t = some .unknownId ∨ lastStatus t = some .schemaMismatch) ∧
      t.rxq = encodeFrame s.params k body ∧ t.mbox = s.mbox ∧
      exec .msgPop t = .next v ∧ v.rxq = [] ∧ v.mbox = s.mbox.set k.val ⟨true, body⟩ ∧
      v.response = some ⟨.ok, .message (6 + r.len.toNat) k r.id r.len r.token body⟩

/-- R66, R97: every `MSG_POP` that is not `INCOMPLETE` consumes at least one byte, so `POP_ALL` ends with `INCOMPLETE` after at most
`|RXQ| + 1` commands; an `INCOMPLETE` consumes nothing and is repeated by the next `MSG_POP`. -/
def Obligations.PopAllEnds : Prop :=
  ∀ s : State, exec .msgPop s = .next (msgPop s.params s) ∧
    (lastStatus (msgPop s.params s) ≠ some .incomplete → (msgPop s.params s).rxq.length < s.rxq.length) ∧
    lastStatus (popAll s.params (s.rxq.length + 1) s) = some .incomplete ∧
    (lastStatus (msgPop s.params s) = some .incomplete → (msgPop s.params s).rxq = s.rxq ∧
      exec .msgPop (msgPop s.params s) = .next (msgPop s.params s))

/-! ## The State Aggregator (R100 to R107) -/

/-- R100, R103, R104, R106: a tick writes the groups as `ROUTE` says, in ascending kind order, updates the side channel in that order, and leaves
every mailbox not fresh, with its body. -/
def Obligations.TickAppliesFreshMessages : Prop :=
  ∀ s t : State, exec .ctlProc s = .next t →
    t.groups = latchPrev ((tickWrites s).map groupOf) s.groups ((tickWrites s).foldl writeCur s.groups) ∧
    t.sideSt = tickSide s ∧ ∀ k : Kind, t.mbox[k] = ⟨false, s.mbox[k].body⟩

/-- R102: a group written in a tick has its `prev` set to the `cur` of the start of the tick; a group not written keeps both. -/
def Obligations.PreviousIsStartOfTick : Prop :=
  ∀ s t : State, exec .ctlProc s = .next t →
    let written := fun G : Group => ∃ w ∈ tickWrites s, groupOf w = G
    ((written .cref → t.groups.cref.prev = s.groups.cref.cur) ∧ (¬ written .cref → t.groups.cref = s.groups.cref)) ∧
    ((written .cmeas → t.groups.cmeas.prev = s.groups.cmeas.cur) ∧ (¬ written .cmeas → t.groups.cmeas = s.groups.cmeas)) ∧
    ((written .wmeas → t.groups.wmeas.prev = s.groups.wmeas.cur) ∧ (¬ written .wmeas → t.groups.wmeas = s.groups.wmeas)) ∧
    ((written .gref → t.groups.gref.prev = s.groups.gref.cur) ∧ (¬ written .gref → t.groups.gref = s.groups.gref)) ∧
    ((written .gpos → t.groups.gpos.prev = s.groups.gpos.cur) ∧ (¬ written .gpos → t.groups.gpos = s.groups.gpos)) ∧
    ((written .grate → t.groups.grate.prev = s.groups.grate.cur) ∧ (¬ written .grate → t.groups.grate = s.groups.grate))

/-- R101, R103: when several writes of a tick reach one group, the last one stands in `cur`, whole. -/
def Obligations.LastWriteOfTickStands : Prop :=
  ∀ (s t : State) (early late : List GroupWrite) (w : GroupWrite), exec .ctlProc s = .next t →
    tickWrites s = early ++ w :: late → (∀ x ∈ late, groupOf x ≠ groupOf w) →
    match w with
    | .cref v => t.groups.cref.cur = v
    | .cmeas v => t.groups.cmeas.cur = v
    | .wmeas v => t.groups.wmeas.cur = v
    | .gref v => t.groups.gref.cur = v
    | .gpos v => t.groups.gpos.cur = v
    | .grate v => t.groups.grate.cur = v

/-! ## The PID Bank (R110 to R125) -/

/-- R112, R120: the clamp, its boundary cases for an admitted limit, and its bound: a clamped value is NaN or within the limit. The boundary cases and
the bound rest on the order laws of assumption 4 (DEDUCED). -/
def Obligations.ClampStaysWithinLimit : Prop :=
  ∀ (N : NumDomain) (x limit : NUM), N.isFinite limit = true → N.gt NUM.zero limit = false →
    (N.gt x limit = true → clamp N x limit = limit) ∧
    (N.gt x limit = false → N.gt (N.neg limit) x = true → clamp N x limit = N.neg limit) ∧
    (N.gt x limit = false → N.gt (N.neg limit) x = false → clamp N x limit = x) ∧
    clamp N limit limit = limit ∧ clamp N (N.neg limit) limit = N.neg limit ∧
    (N.isNaN (clamp N x limit) = false → N.within (clamp N x limit) limit = true)

/-- R113 to R119: one PID step, written out operation by operation. -/
def Obligations.PidStepFormula : Prop :=
  ∀ (N : NumDomain) (c : PidCfg) (r : PidRegs) (sp m dt : NUM),
    let e := N.sub sp m
    let p := N.mul c.kp e
    let ia := clamp N (N.add r.iacc (N.mul (N.mul c.ki e) dt)) c.ilim
    let d := match c.dmode with
      | .err => N.mul c.kd (N.div (N.sub e r.perr) dt)
      | .meas => N.mul c.kd (N.div (N.sub r.pmeas m) dt)
    let u := clamp N (N.add (N.add p ia) d) c.olim
    (N.gt dt NUM.zero = false → pidStep N c r sp m dt = .ok r) ∧
    (N.gt dt NUM.zero = true → (N.isNaN ia = true ∨ N.isNaN u = true) → pidStep N c r sp m dt = .error .mfPidNan) ∧
    (N.gt dt NUM.zero = true → N.isNaN ia = false → N.isNaN u = false → pidStep N c r sp m dt = .ok ⟨ia, e, m, u⟩)

/-- R121: the inverse mecanum map, one row per wheel. -/
def Obligations.MecanumMapRows : Prop :=
  ∀ (P : Params) (x y z : NUM) (j : Fin 4),
    (mecIK P #v[x, y, z])[j] =
      P.num.add (P.num.add (P.num.mul (P.mecM j 0) x) (P.num.mul (P.mecM j 1) y)) (P.num.mul (P.mecM j 2) z)

/-! ## The Control Scheduler (R130 to R143) -/

/-- R131, R191: `CTL_INIT` completes in every state; it zeroes the groups, the PID registers, the outputs and `WDG_AGE`, enters `Ready`, and
leaves everything else. -/
def Obligations.CtlInitZeroesControl : Prop :=
  ∀ s : State, exec .ctlInit s = .next { s with
    sched := .ready, wdgAge := 0,
    groups := ⟨⟨#v[⟨0⟩, ⟨0⟩, ⟨0⟩], #v[⟨0⟩, ⟨0⟩, ⟨0⟩]⟩, ⟨#v[⟨0⟩, ⟨0⟩, ⟨0⟩], #v[⟨0⟩, ⟨0⟩, ⟨0⟩]⟩,
      ⟨#v[⟨0⟩, ⟨0⟩, ⟨0⟩, ⟨0⟩], #v[⟨0⟩, ⟨0⟩, ⟨0⟩, ⟨0⟩]⟩, ⟨#v[⟨0⟩, ⟨0⟩], #v[⟨0⟩, ⟨0⟩]⟩, ⟨#v[⟨0⟩, ⟨0⟩], #v[⟨0⟩, ⟨0⟩]⟩,
      ⟨#v[⟨0⟩, ⟨0⟩], #v[⟨0⟩, ⟨0⟩]⟩⟩,
    pid := Vector.replicate 11 ⟨⟨0⟩, ⟨0⟩, ⟨0⟩, ⟨0⟩⟩,
    cmdW := #v[⟨0⟩, ⟨0⟩, ⟨0⟩, ⟨0⟩], cmdG := #v[⟨0⟩, ⟨0⟩],
    response := some ⟨.ok, .sched .ready⟩ }

/-- R141: a tick in `Uninitialized` is the model fault `MF_PROC_BEFORE_INIT`. -/
def Obligations.ProcBeforeInitFaults : Prop :=
  ∀ s : State, s.sched = .uninitialized → exec .ctlProc s = .fault .mfProcBeforeInit

/-- R119, R132, R141: a tick completes exactly when the block is initialised and no PID step of it gives a NaN (in `Faulted` none runs). -/
def Obligations.TickCompletesUnlessNaN : Prop :=
  ∀ s : State,
    ((∃ t, exec .ctlProc s = .next t) ↔ s.sched ≠ .uninitialized ∧ TickDefined s) ∧
    (s.sched ≠ .uninitialized → ¬ TickDefined s → exec .ctlProc s = .fault .mfPidNan)

/-- R110, R122, R123, R132, R136, R138: a tick in `Ready` or `Running`. Every PID instance takes exactly one step with `DT`, its inputs wired as R110 says,
from the groups as `Apply` left them; one dispatch event carries the outputs of the wheel and gimbal rate loops; then the watchdog either keeps the
block running with those outputs or faults it with zero outputs. -/
def Obligations.RunningTickRunsTheCascades : Prop :=
  ∀ s : State, s.sched = .ready ∨ s.sched = .running → TickDefined s →
    ∃ t : State, exec .ctlProc s = .next t ∧
      let P := s.params
      let g := t.groups
      let ran := fun (i : PidIx) (sp m : NUM) => pidStep P.num (P.cfg i) s.pid[i] sp m P.dt = .ok t.pid[i]
      let wt := mecIK P #v[t.pid[4].out, t.pid[5].out, t.pid[6].out]
      let w : Vector NUM 4 := #v[t.pid[0].out, t.pid[1].out, t.pid[2].out, t.pid[3].out]
      let a : Vector NUM 2 := #v[t.pid[9].out, t.pid[10].out]
      (∀ j : Fin 3, ran (PidIx.chassis j) g.cref.cur[j] g.cmeas.cur[j]) ∧
      (∀ j : Fin 4, ran (PidIx.wheel j) wt[j] g.wmeas.cur[j]) ∧
      (∀ j : Fin 2, ran (PidIx.gimbalPos j) g.gref.cur[j] g.gpos.cur[j] ∧
        ran (PidIx.gimbalRate j) t.pid[PidIx.gimbalPos j].out g.grate.cur[j]) ∧
      t.sink = s.sink ++ [⟨w, a⟩] ∧
      (t.wdgAge.toNat ≤ 100 → t.sched = .running ∧ t.cmdW = w ∧ t.cmdG = a) ∧
      (100 < t.wdgAge.toNat → t.sched = .faulted ∧ t.cmdW = #v[⟨0⟩, ⟨0⟩, ⟨0⟩, ⟨0⟩] ∧ t.cmdG = #v[⟨0⟩, ⟨0⟩]) ∧
      t.response = some ⟨.ok, .sched t.sched⟩

/-- R135, R136, R139: a tick in `Faulted` completes, steps no PID instance and writes no output, dispatches the outputs as they are, and stays in
`Faulted`; the messages are applied and the watchdog counts. -/
def Obligations.FaultedTickHoldsTheBank : Prop :=
  ∀ s : State, s.sched = .faulted → ∃ t : State, exec .ctlProc s = .next t ∧
    t = { s with groups := t.groups, sideSt := t.sideSt, mbox := t.mbox, wdgAge := t.wdgAge,
                 sink := s.sink ++ [⟨s.cmdW, s.cmdG⟩], response := some ⟨.ok, .sched .faulted⟩ }

/-- R132, R199: whatever its state, a tick leaves the counters, both queues, the link, the tag and the steps to come, and emits exactly one dispatch
event. -/
def Obligations.TickFrame : Prop :=
  ∀ s t : State, exec .ctlProc s = .next t → ∃ e : DispatchEvent,
    t = { s with sched := t.sched, wdgAge := t.wdgAge, mbox := t.mbox, sideSt := t.sideSt, groups := t.groups, pid := t.pid,
                 cmdW := t.cmdW, cmdG := t.cmdG, sink := s.sink ++ [e], response := some ⟨.ok, .sched t.sched⟩ }

/-- R107, R137: a tick that wrote a group resets the watchdog; any other adds `CTL_PERIOD_MS`, saturating at 2^32 - 1. -/
def Obligations.WatchdogCountsStaleTicks : Prop :=
  ∀ s t : State, exec .ctlProc s = .next t →
    (tickWrites s ≠ [] → t.wdgAge = 0) ∧
    (tickWrites s = [] → t.wdgAge.toNat = min (s.wdgAge.toNat + s.params.ctlPeriodMs) (2 ^ 32 - 1))

/-- R138, R164: the entry into `Faulted` changes `SCHED` and the six commanded outputs and nothing else, and a tick makes it exactly when it leaves
`WDG_AGE` above 100. -/
def Obligations.FaultEntryZeroesOutputs : Prop :=
  (∀ s : State, enterFaulted s =
    { s with sched := .faulted, cmdW := #v[⟨0⟩, ⟨0⟩, ⟨0⟩, ⟨0⟩], cmdG := #v[⟨0⟩, ⟨0⟩] }) ∧
  ∀ s t : State, exec .ctlProc s = .next t → s.sched ≠ .faulted → (t.sched = .faulted ↔ 100 < t.wdgAge.toNat)

/-- R130, R140: the transitions of `SCHED` and no others, over every step of every agent. A `Ready` tick starts running and may fault at its end. -/
def Obligations.SchedulerTransitions : Prop :=
  ∀ s t : State, step s = .next t →
    t.sched = s.sched ∨ (nextIs .ctlInit s ∧ t.sched = .ready) ∨
    (nextIs .ctlProc s ∧ s.sched = .ready ∧ (t.sched = .running ∨ t.sched = .faulted)) ∨
    (nextIs .ctlProc s ∧ s.sched = .running ∧ t.sched = .faulted)

/-- R143: from `Ready` or `Running` with `WDG_AGE` = 0, after `n` ticks that apply no fresh update, whatever other steps fall between them, `WDG_AGE` is
`n` periods (it saturates), and the block is `Faulted` exactly when that exceeds 100 ms: first at `n = floor(100 / CTL_PERIOD_MS) + 1`. -/
def Obligations.WatchdogTiming : Prop :=
  ∀ (s t : State) (n : Nat), s.sched = .ready ∨ s.sched = .running → s.wdgAge = 0 → QuietRun s n t → 0 < n →
    t.wdgAge.toNat = min (n * s.params.ctlPeriodMs) (2 ^ 32 - 1) ∧
    (t.sched = .faulted ↔ 100 < n * s.params.ctlPeriodMs) ∧
    (t.sched = .faulted ↔ 100 / s.params.ctlPeriodMs + 1 ≤ n) ∧ (t.sched = .running ↔ n ≤ 100 / s.params.ctlPeriodMs)

/-- R199: no step of any agent changes the block's configuration, and no step but the commands `CTL_INIT` and `CTL_PROC` changes the control state, the
PID registers, the outputs, the watchdog, `SCHED`, the side channel or the actuator sink. -/
def Obligations.OnlyCtlCommandsWriteControl : Prop :=
  ∀ s t : State, step s = .next t →
    t.config = s.config ∧
    (¬ nextIs .ctlInit s → ¬ nextIs .ctlProc s →
      t.groups = s.groups ∧ t.pid = s.pid ∧ t.cmdW = s.cmdW ∧ t.cmdG = s.cmdG ∧ t.wdgAge = s.wdgAge ∧ t.sched = s.sched ∧
        t.sideSt = s.sideSt ∧ t.sink = s.sink)

/-! ## Readback and `NOP` (R150 to R154) -/

/-- R151: what `RD_REG` of each listed selector reads, in every state but an uninitialised one for the selectors marked "init". A queue
length that no u32 holds reads as some value (assumption 7, DESIGN CHOICE). -/
def Obligations.RdRegReadsSelectedRegister : Prop :=
  ∀ s : State,
    readsAs s 0x00 (.u32 (match s.sched with | .uninitialized => 0 | .ready => 1 | .running => 2 | .faulted => 3)) ∧
    readsAs s 0x02 (.u32 s.cnt.popOk) ∧ readsAs s 0x03 (.u32 s.cnt.unknownId) ∧ readsAs s 0x04 (.u32 s.cnt.schema) ∧
    readsAs s 0x05 (.u32 s.cnt.checksum) ∧ readsAs s 0x06 (.u32 s.cnt.pushOk) ∧ readsAs s 0x07 (.u32 s.cnt.lenOverflow) ∧
    readsAs s 0x08 (.u32 s.cnt.noSpace) ∧ readsAs s 0x09 (.u32 s.cnt.rxDrop) ∧
    (∃ v, readsAs s 0x0A (.u32 v) ∧ (s.rxq.length < 2 ^ 32 → v = BitVec.ofNat 32 s.rxq.length)) ∧
    (∃ v, readsAs s 0x0B (.u32 v) ∧ (s.txq.length < 2 ^ 32 → v = BitVec.ofNat 32 s.txq.length)) ∧
    readsAs s 0x0C (.u32 (freshWord s.mbox)) ∧
    (s.sched ≠ .uninitialized →
      readsAs s 0x01 (.u32 s.wdgAge) ∧
      (∀ j : Fin 3, readsAs s (0x10 + j) (.num s.groups.cref.cur[j]) ∧ readsAs s (0x13 + j) (.num s.groups.cref.prev[j]) ∧
        readsAs s (0x16 + j) (.num s.groups.cmeas.cur[j]) ∧ readsAs s (0x19 + j) (.num s.groups.cmeas.prev[j])) ∧
      (∀ j : Fin 4, readsAs s (0x1C + j) (.num s.groups.wmeas.cur[j]) ∧ readsAs s (0x20 + j) (.num s.groups.wmeas.prev[j]) ∧
        readsAs s (0x30 + j) (.num s.cmdW[j])) ∧
      (∀ a : Fin 2, readsAs s (0x24 + a) (.num s.groups.gref.cur[a]) ∧ readsAs s (0x26 + a) (.num s.groups.gref.prev[a]) ∧
        readsAs s (0x28 + a) (.num s.groups.gpos.cur[a]) ∧ readsAs s (0x2A + a) (.num s.groups.gpos.prev[a]) ∧
        readsAs s (0x2C + a) (.num s.groups.grate.cur[a]) ∧ readsAs s (0x2E + a) (.num s.groups.grate.prev[a]) ∧
        readsAs s (0x34 + a) (.num s.cmdG[a])) ∧
      ∀ i : PidIx, readsAs s (0x40 + 4 * i) (.num s.pid[i].iacc) ∧ readsAs s (0x40 + 4 * i + 1) (.num s.pid[i].perr) ∧
        readsAs s (0x40 + 4 * i + 2) (.num s.pid[i].pmeas) ∧ readsAs s (0x40 + 4 * i + 3) (.num s.pid[i].out))

/-- R151: bit `k` of `MBOX_FRESH` is `MBOX[k].fresh`, and bits `[31:21]` read 0. -/
def Obligations.FreshWordBits : Prop :=
  ∀ s : State, (∀ k : Kind, (freshWord s.mbox).getLsbD k.val = s.mbox[k].fresh) ∧
    ∀ i : Nat, 21 ≤ i → (freshWord s.mbox).getLsbD i = false

/-- R150, R152, R166: an unlisted selector answers `ILLEGAL_COMMAND` in every state; a selector marked "init" in `Uninitialized` is the model fault
`MF_READ_BEFORE_INIT`. -/
def Obligations.RdRegStopsAndIllegal : Prop :=
  ∀ (s : State) (sel : Byte), let n := sel.toNat
    ((0x0D ≤ n ∧ n ≤ 0x0F) ∨ (0x36 ≤ n ∧ n ≤ 0x3F) ∨ 0x6C ≤ n →
      exec (.rdReg sel) s = .next { s with response := some ⟨.illegalCommand, .none⟩ }) ∧
    (n = 0x01 ∨ (0x10 ≤ n ∧ n ≤ 0x35) ∨ (0x40 ≤ n ∧ n ≤ 0x6B) → s.sched = .uninitialized →
      exec (.rdReg sel) s = .fault .mfReadBeforeInit)

/-- R153: `NOP` returns `OK` and changes nothing. -/
def Obligations.NopChangesNothing : Prop :=
  ∀ s : State, exec .nop s = .next { s with response := some ⟨.ok, .none⟩ }

/-- R43: the lookups, `RD_REG` and `NOP` have no side effect, and repeating one returns the same response. -/
def Obligations.ReadsAreIdempotent : Prop :=
  ∀ (s t : State) (i : Instr), (match i with | .nop | .regById _ | .regByKind _ | .rdReg _ => True | _ => False) →
    exec i s = .next t → t = { s with response := t.response } ∧ exec i t = .next t

/-- R160, R161: the nine status codes are 0 to 8, and a command word returns one of the codes of its opcode's row and no other, but for one choice of the
model: a `REG_BY_ID` word that comes with a data operand is illegal by R61 (f), a code that R161's row leaves out (assumption 10, DEDUCED). A word of no
opcode returns `ILLEGAL_COMMAND`. -/
def Obligations.StatusCodesPerCommand : Prop :=
  (Status.ok.code = 0 ∧ Status.incomplete.code = 1 ∧ Status.unknownId.code = 2 ∧ Status.schemaMismatch.code = 3 ∧ Status.checksumMismatch.code = 4 ∧
    Status.lengthOverflow.code = 5 ∧ Status.noSpace.code = 6 ∧ Status.notFound.code = 7 ∧ Status.illegalCommand.code = 8) ∧
  ∀ (s t : State) (w : Half) (d : List Byte), issue w d s = .next t → ∃ r, t.response = some r ∧
    let op := w.extractLsb' 0 8
    if op = 0x00#8 then r.status = .ok ∨ r.status = .illegalCommand
    else if op = 0x01#8 then r.status = .ok ∨ r.status = .notFound ∨ (r.status = .illegalCommand ∧ d ≠ [])
    else if op = 0x02#8 then r.status = .ok ∨ r.status = .illegalCommand
    else if op = 0x10#8 then r.status = .ok ∨ r.status = .lengthOverflow ∨ r.status = .noSpace ∨ r.status = .illegalCommand
    else if op = 0x11#8 then
      r.status = .ok ∨ r.status = .incomplete ∨ r.status = .unknownId ∨ r.status = .schemaMismatch ∨ r.status = .checksumMismatch ∨
        r.status = .illegalCommand
    else if op = 0x20#8 then r.status = .ok ∨ r.status = .illegalCommand
    else if op = 0x21#8 then r.status = .ok ∨ r.status = .illegalCommand
    else if op = 0x30#8 then r.status = .ok ∨ r.status = .illegalCommand
    else r.status = .illegalCommand

/-! ## Reset and the invariant -/

/-- R190: what power-on leaves, for the state whose value the spec gives. -/
def Obligations.ResetState : Prop :=
  ∀ c : ConfigId, let s := State.resetOf c
    s.sched = .uninitialized ∧ s.cnt = ⟨0, 0, 0, 0, 0, 0, 0, 0⟩ ∧ s.rxq = [] ∧ s.txq = [] ∧
    (∀ k : Kind, s.mbox[k].fresh = false) ∧ s.sideSt = s.params.sideInit ∧ s.config = c

/-- The invariant holds after power-on (R190); its clauses about registers the spec leaves unspecified there do not apply in `Uninitialized`, and
the mailbox bodies have the length assumption 9 (DESIGN CHOICE) gives them. -/
def Obligations.InvariantAtReset : Prop := Inv State.reset ∧ ∀ c : ConfigId, Inv (State.resetOf c)

/-- R18, R19, R120, R131, R136, R138: every step of every agent keeps the invariant: the queues fit their capacities, the mailbox bodies have their
kinds' lengths, the PID registers and the outputs are within their limits, `Faulted` outputs are zero, a `Running` watchdog is not stale, a `Ready` control
side is zero. The limits rest on the order laws of assumption 4 (DEDUCED). -/
def Obligations.StepKeepsInvariant : Prop := ∀ s t : State, Inv s → step s = .next t → Inv t
end

