-- ==== Sys2Proof/Laws/Encoding.lean ====
section
/-! SUPPORT. The command word, the operand forms, the head and the frame, each with the lemma that says what it holds. -/

namespace Sys2Proof

theorem commandWord_getLsbD (op s : Byte) (i : Nat) :
    (commandWord op s).getLsbD i = if i < 8 then op.getLsbD i else s.getLsbD (i - 8) :=
  BitVec.getLsbD_append

@[simp] theorem opField_commandWord (op s : Byte) : opField (commandWord op s) = op := by
  ext i hi
  simp [opField, commandWord_getLsbD, hi]

@[simp] theorem sField_commandWord (op s : Byte) : sField (commandWord op s) = s := by
  ext i hi
  simp [sField, commandWord_getLsbD, hi]

/-- A command word is its two fields (R58). -/
theorem commandWord_fields (w : Half) : commandWord (opField w) (sField w) = w := by
  apply BitVec.eq_of_getLsbD_eq
  intro i hi
  rw [commandWord_getLsbD]
  split
  · simp [opField, *]
  · rw [sField, BitVec.getLsbD_extractLsb', decide_eq_true (by omega), Bool.true_and]
    congr 1; omega

/-- The config-independent part of legality follows from legality. -/
theorem Instr.wordLegal_of_wellFormed {P : Params} {i : Instr} (h : i.wellFormed P = true) : i.wordLegal = true := by
  cases i <;> simp_all [Instr.wellFormed, Instr.wordLegal]

end Sys2Proof

namespace Sys2Proof.Machine

/-- `S` names kind `k` exactly when it is `k` (R59, R64). -/
theorem kindOf?_eq_some {b : Byte} {k : Kind} : kindOf? b = some k ↔ b.toNat = k.val := by
  constructor
  · intro h
    simp only [kindOf?] at h
    split at h
    · simpa using congrArg (Option.map Fin.val) h
    · simp at h
  · intro h
    have : b.toNat < 21 := h ▸ k.isLt
    simp [kindOf?, h]

theorem kindOf?_eq_none {b : Byte} : kindOf? b = none ↔ 20 < b.toNat := by
  by_cases h : b.toNat < 21 <;> simp [kindOf?, h] <;> omega

/-- `S` is a kind index exactly when it is in range (R61 (c)). -/
theorem kindInRange_iff {b : Byte} : kindInRange b = true ↔ ∃ k, kindOf? b = some k := by
  by_cases h : b.toNat < 21 <;> simp [kindInRange, kindOf?, h] <;> omega

@[simp] theorem kindOf?_kindByte (k : Kind) : kindOf? (kindByte k) = some k := by
  rw [kindOf?_eq_some, kindByte, BitVec.toNat_ofNat]
  exact Nat.mod_eq_of_lt (by omega)

/-- The head in wire order: `id`, `length`, `token[7:0]`, `token[15:8]` (R38, R52). -/
theorem headPack_eq (h : Head) : headPack h = [h.id, h.len, h.token.extractLsb' 0 8, h.token.extractLsb' 8 8] := by
  simp only [headPack, headWord, List.cons.injEq, and_true]
  refine ⟨?_, ?_, ?_, ?_⟩ <;> ext i hi <;>
    simp [BitVec.getElem_extractLsb', BitVec.getLsbD_or, BitVec.getLsbD_shiftLeft, BitVec.getLsbD_setWidth] <;>
    interval_cases i <;> simp [BitVec.getLsbD_of_ge]

@[simp] theorem headPack_length (h : Head) : (headPack h).length = 4 := rfl

@[simp] theorem le16_length (v : Half) : (le16 v).length = 2 := rfl

/-- A 16-bit value survives its wire form (R39). -/
@[simp] theorem ofLe16_le16 (v : Half) : ofLe16 (v.extractLsb' 0 8) (v.extractLsb' 8 8) = v := by
  ext i hi
  simp only [ofLe16, BitVec.getElem_or, BitVec.getElem_shiftLeft, BitVec.getElem_setWidth, BitVec.getLsbD_extractLsb']
  by_cases h : i < 8
  · simp [h, BitVec.getLsbD_eq_getElem, hi]
  · have : 8 + (i - 8) = i := by omega
    simp [h, this, BitVec.getLsbD_eq_getElem, hi]; omega

/-- The 16-bit value of two wire bytes is the second byte above the first (R39, R53). -/
theorem ofLe16_append (c d : Byte) : ofLe16 c d = (d ++ c : Half) := by
  have h1 := c.isLt
  have h2 := d.isLt
  apply BitVec.eq_of_toNat_eq
  rw [BitVec.toNat_append]
  simp only [ofLe16, BitVec.toNat_or, BitVec.toNat_shiftLeft, BitVec.toNat_setWidth]
  rw [Nat.mod_eq_of_lt (by omega : c.toNat < 2^16), Nat.mod_eq_of_lt (by omega : d.toNat < 2^16), Nat.mod_eq_of_lt (by rw [Nat.shiftLeft_eq]; omega), Nat.or_comm]

/-- `T = 6 + len_k` (R54). -/
theorem frameSize_eq (P : Params) (k : Kind) : frameSize P k = 6 + (P.registry k).len.toNat := by
  simp only [frameSize, HEAD_LEN, CRC_LEN, lenOf]; omega

/-- A frame of kind `k` has `6 + len_k` bytes when its body has `len_k` (R54). -/
theorem encodeFrame_length (P : Params) (k : Kind) (body : List Byte) (h : body.length = lenOf P k) :
    (encodeFrame P k body).length = frameSize P k := by
  simp [encodeFrame, frameSize, HEAD_LEN, CRC_LEN, h, Nat.add_assoc]

/-- `LookupById` gives a kind whose row has the id (R72). -/
theorem lookupById_some {P : Params} {id : Byte} {k : Kind} (h : lookupById P id = some k) : (P.registry k).id = id := by
  simpa using List.find?_some h

/-- `LookupById` gives none exactly when no row has the id (R72). -/
theorem lookupById_none {P : Params} {id : Byte} : lookupById P id = none ↔ ∀ k, (P.registry k).id ≠ id := by
  simp [lookupById, kinds]

/-- In an admitted registry the id of a row finds that row (R71 (b), R72). -/
theorem lookupById_id {P : Params} (h : P.idsDistinct = true) (k : Kind) : lookupById P (P.registry k).id = some k := by
  cases hj : lookupById P (P.registry k).id with
  | none => exact absurd rfl (lookupById_none.mp hj k)
  | some j =>
    simp only [Params.idsDistinct, decide_eq_true_eq] at h
    rw [h j k (lookupById_some hj)]

/-- What admission of the parameters says, condition by condition. -/
theorem Params.admitted_iff (P : Params) :
    P.admitted = true ↔ P.idsDistinct = true ∧ P.tokensDistinct = true ∧ P.layoutsFit = true ∧ P.scalesAdmitted = true ∧
      P.knownScales = true ∧ P.cfgAdmitted = true ∧ P.queuesAdmitted = true ∧ P.periodAdmitted = true ∧ P.typeIdxAdmitted = true := by
  simp [Params.admitted, and_assoc]

theorem State.params_admitted (s : State) : s.params.admitted = true := paramsOf_admitted s.config

theorem State.idsDistinct (s : State) : s.params.idsDistinct = true := ((Params.admitted_iff _).mp s.params_admitted).1

end Sys2Proof.Machine
end

