-- ==== Sys2Proof/Laws/State.lean ====
section
/-! SUPPORT. The updates of the state: which block a state belongs to never changes, what a counter reads after it grew, what a mailbox or a
PID instance reads after a write, and the composed updates field by field. (The read-over-write lemma of each field under each named update stands
beside the update in Machine/Ops.lean: `State.respond_rxq` and so on.) -/

namespace Sys2Proof.Machine

theorem State.params_congr {s t : State} (h : t.config = s.config) : t.params = s.params := by simp [State.params, h]

@[simp] theorem State.params_respond (s : State) (r : Response) : (s.respond r).params = s.params := rfl
@[simp] theorem State.params_withRxq (s : State) (q : List Byte) : (s.withRxq q).params = s.params := rfl
@[simp] theorem State.params_withTxq (s : State) (q : List Byte) : (s.withTxq q).params = s.params := rfl
@[simp] theorem State.params_withMail (s : State) (k : Kind) (m : Mailbox) : (s.withMail k m).params = s.params := rfl
@[simp] theorem State.params_withSide (s : State) (x : SideState) : (s.withSide x).params = s.params := rfl
@[simp] theorem State.params_withGroups (s : State) (g : Groups) : (s.withGroups g).params = s.params := rfl
@[simp] theorem State.params_withPid (s : State) (i : PidIx) (r : PidRegs) : (s.withPid i r).params = s.params := rfl
@[simp] theorem State.params_withCmdW (s : State) (w : Vector NUM 4) : (s.withCmdW w).params = s.params := rfl
@[simp] theorem State.params_withCmdG (s : State) (g : Vector NUM 2) : (s.withCmdG g).params = s.params := rfl
@[simp] theorem State.params_withAge (s : State) (age : Word) : (s.withAge age).params = s.params := rfl
@[simp] theorem State.params_withSched (s : State) (v : Sched) : (s.withSched v).params = s.params := rfl
@[simp] theorem State.params_withPending (s : State) (l : List PortStep) : (s.withPending l).params = s.params := rfl
@[simp] theorem State.params_emit (s : State) (e : DispatchEvent) : (s.emit e).params = s.params := rfl
@[simp] theorem State.params_sendByte (s : State) (b : Byte) : (s.sendByte b).params = s.params := rfl
@[simp] theorem State.params_count (s : State) (c : Counter) : (s.count c).params = s.params := rfl

/-- A counter that grew reads one more; the others read as before (R17). -/
@[simp] theorem Counters.get_bump (c : Counters) (a b : Counter) :
    (c.bump a).get b = if a = b then c.get b + 1 else c.get b := by
  cases a <;> cases b <;> simp [Counters.bump, Counters.get]

/-- A mailbox reads as written, the others as before. -/
@[simp] theorem State.withMail_get (s : State) (k j : Kind) (m : Mailbox) :
    (s.withMail k m).mbox[j] = if k = j then m else s.mbox[j] := by
  simp [State.withMail, Vector.getElem_set, Fin.ext_iff]

/-- A PID instance reads as written, the others as before. -/
@[simp] theorem State.withPid_get (s : State) (i j : PidIx) (r : PidRegs) :
    (s.withPid i r).pid[j] = if i = j then r else s.pid[j] := by
  simp [State.withPid, Vector.getElem_set, Fin.ext_iff]

/-- What `enterFaulted` changes (R164): `SCHED` and the six commanded outputs. -/
theorem enterFaulted_eq (s : State) :
    enterFaulted s =
      { s with sched := .faulted, cmdW := Vector.replicate 4 NUM.zero, cmdG := Vector.replicate 2 NUM.zero } := rfl

/-- What `initControl` changes (R131, R191). -/
theorem initControl_eq (s : State) :
    initControl s =
      { s with sched := .ready, wdgAge := 0, groups := Groups.zero, pid := Vector.replicate 11 PidRegs.zero,
               cmdW := Vector.replicate 4 NUM.zero, cmdG := Vector.replicate 2 NUM.zero } := rfl

@[simp] theorem rxDrop_rxq (s : State) (n : Nat) : (rxDrop s n).rxq = s.rxq.drop n := rfl
@[simp] theorem txAppend_txq (s : State) (f : List Byte) : (txAppend s f).txq = s.txq ++ f := rfl
@[simp] theorem rxPeek_all (s : State) : rxPeek s (rxAvail s) = s.rxq := by simp [rxPeek, rxAvail]

end Sys2Proof.Machine
end

