-- ==== Sys2Proof/Laws/Aggregator.lean ====
section
/-! SUPPORT. What `Apply` changes, and what it leaves in each mailbox, group and side channel. -/

namespace Sys2Proof.Machine

/-- What one turn of the loop changes. -/
theorem applyKind_frame (P : Params) (acc : State × List Group) (k : Kind) :
    (applyKind P acc k).1 =
      { acc.1 with groups := (applyKind P acc k).1.groups, sideSt := (applyKind P acc k).1.sideSt,
                   mbox := (applyKind P acc k).1.mbox } := by
  unfold applyKind
  simp only
  split <;> rfl

/-- What the whole loop changes. -/
theorem applyLoop_frame (P : Params) (l : List Kind) (acc : State × List Group) :
    (l.foldl (applyKind P) acc).1 =
      { acc.1 with groups := (l.foldl (applyKind P) acc).1.groups, sideSt := (l.foldl (applyKind P) acc).1.sideSt,
                   mbox := (l.foldl (applyKind P) acc).1.mbox } := by
  induction l generalizing acc with
  | nil => rfl
  | cons k l ih => rw [List.foldl_cons, ih, applyKind_frame]

/-- `Apply` changes the groups, the side channel and the mailbox (R100). -/
theorem apply_frame (P : Params) (s : State) :
    (apply P s).1 =
      { s with groups := (apply P s).1.groups, sideSt := (apply P s).1.sideSt, mbox := (apply P s).1.mbox } := by
  have h := applyLoop_frame P kinds (s, [])
  simp only [apply]
  generalize kinds.foldl (applyKind P) (s, []) = r at h ⊢
  rw [h]
  rfl

/-- The loop over the kinds `l`, which name each kind once: the fresh boxes among them are cleared, the writes and side-channel updates
are those of the fresh kinds in order (R100, R103, R104). -/
theorem applyLoop_spec (P : Params) (l : List Kind) (hl : l.Nodup) (acc : State × List Group) :
    (∀ k : Kind, (l.foldl (applyKind P) acc).1.mbox[k] =
        if k ∈ l then ⟨false, acc.1.mbox[k].body⟩ else acc.1.mbox[k]) ∧
      (l.foldl (applyKind P) acc).1.groups =
        (l.flatMap fun k => if acc.1.mbox[k].fresh then P.route k acc.1.mbox[k].body else []).foldl writeCur acc.1.groups ∧
      (l.foldl (applyKind P) acc).1.sideSt =
        l.foldl (fun x k => if acc.1.mbox[k].fresh then P.side k acc.1.mbox[k].body x else x) acc.1.sideSt ∧
      (l.foldl (applyKind P) acc).2 =
        acc.2 ++ (l.flatMap fun k => if acc.1.mbox[k].fresh then P.route k acc.1.mbox[k].body else []).map groupOf := by
  induction l generalizing acc with
  | nil => simp
  | cons k l ih =>
    obtain ⟨hk, hl⟩ := List.nodup_cons.mp hl
    obtain ⟨h1, h2, h3, h4⟩ := ih hl (applyKind P acc k)
    have hother : ∀ j ∈ l, (applyKind P acc k).1.mbox[j] = acc.1.mbox[j] := by
      intro j hj
      have : k ≠ j := fun e => hk (e ▸ hj)
      unfold applyKind
      simp only
      split
      · simp only [applyBody, State.withMail_get, this, if_false]; rfl
      · rfl
    have hw : (l.flatMap fun j => if (applyKind P acc k).1.mbox[j].fresh then P.route j (applyKind P acc k).1.mbox[j].body else []) =
        l.flatMap fun j => if acc.1.mbox[j].fresh then P.route j acc.1.mbox[j].body else [] :=
      List.flatMap_congr fun j hj => by rw [hother j hj]
    have hs : ∀ x, l.foldl (fun x j => if (applyKind P acc k).1.mbox[j].fresh then P.side j (applyKind P acc k).1.mbox[j].body x else x) x =
        l.foldl (fun x j => if acc.1.mbox[j].fresh then P.side j acc.1.mbox[j].body x else x) x := by
      intro x
      exact List.foldl_ext _ _ _ fun x j hj => by rw [hother j hj]
    refine ⟨fun j => ?_, ?_, ?_, ?_⟩
    · rw [List.foldl_cons, h1 j]
      by_cases hjl : j ∈ l
      · simp [hjl, hother j hjl]
      · by_cases hjk : j = k
        · subst hjk
          simp only [hjl, if_false, List.mem_cons, true_or, if_true]
          unfold applyKind
          simp only
          split
          · simp [applyBody]
          · rename_i hf
            simp only [Bool.not_eq_true] at hf
            rw [← hf]
        · simp only [hjl, hjk, List.mem_cons, or_self, if_false]
          unfold applyKind
          simp only
          split
          · simp only [applyBody, State.withMail_get, Ne.symm hjk, if_false]; rfl
          · rfl
    · rw [List.foldl_cons, h2, hw, List.flatMap_cons, List.foldl_append]
      congr 1
      unfold applyKind
      simp only
      split <;> simp [applyBody, *]
    · rw [List.foldl_cons, h3, hs, List.foldl_cons]
      congr 1
      unfold applyKind
      simp only
      split <;> simp [applyBody, *]
    · rw [List.foldl_cons, h4, hw, List.flatMap_cons, List.map_append, ← List.append_assoc]
      congr 1
      unfold applyKind
      simp only
      split <;> simp [*]

/-- `Apply` leaves every mailbox with its body and not fresh (R100, R106). -/
theorem apply_mbox (P : Params) (s : State) (k : Kind) : (apply P s).1.mbox[k] = ⟨false, s.mbox[k].body⟩ := by
  have := (applyLoop_spec P kinds (List.nodup_finRange 21) (s, [])).1 k
  simpa [apply, kinds] using this

/-- Writes that do not reach a group leave it (R101). -/
theorem foldl_writeCur_other (l : List GroupWrite) (g : Groups) :
    ((∀ w ∈ l, groupOf w ≠ .cref) → (l.foldl writeCur g).cref = g.cref) ∧
    ((∀ w ∈ l, groupOf w ≠ .cmeas) → (l.foldl writeCur g).cmeas = g.cmeas) ∧
    ((∀ w ∈ l, groupOf w ≠ .wmeas) → (l.foldl writeCur g).wmeas = g.wmeas) ∧
    ((∀ w ∈ l, groupOf w ≠ .gref) → (l.foldl writeCur g).gref = g.gref) ∧
    ((∀ w ∈ l, groupOf w ≠ .gpos) → (l.foldl writeCur g).gpos = g.gpos) ∧
    ((∀ w ∈ l, groupOf w ≠ .grate) → (l.foldl writeCur g).grate = g.grate) := by
  induction l generalizing g with
  | nil => simp
  | cons w l ih =>
    obtain ⟨i1, i2, i3, i4, i5, i6⟩ := ih (writeCur g w)
    simp only [List.foldl_cons, List.forall_mem_cons]
    refine ⟨fun ⟨x, y⟩ => (i1 y).trans ?_, fun ⟨x, y⟩ => (i2 y).trans ?_, fun ⟨x, y⟩ => (i3 y).trans ?_,
      fun ⟨x, y⟩ => (i4 y).trans ?_, fun ⟨x, y⟩ => (i5 y).trans ?_, fun ⟨x, y⟩ => (i6 y).trans ?_⟩ <;>
      (clear i1 i2 i3 i4 i5 i6; cases w <;> first | rfl | exact absurd rfl x)

/-- A latched group: its `cur` is the new one; its `prev` is the old `cur` exactly when it was written (R102). -/
theorem latchOne_spec {n : Nat} (written : Bool) (old new : Snapshot n) :
    (latchOne written old new).cur = new.cur ∧ (latchOne written old new).prev = if written then old.cur else new.prev := by
  cases written <;> exact ⟨rfl, rfl⟩

/-- What `Apply` leaves, and what it returns, from the writes of the fresh kinds (R100, R102, R104, R107). -/
theorem apply_spec (P : Params) (s : State) :
    let writes := kinds.flatMap fun k => if s.mbox[k].fresh then P.route k s.mbox[k].body else []
    (apply P s).1.groups = latchPrev (writes.map groupOf) s.groups (writes.foldl writeCur s.groups) ∧
      (apply P s).1.sideSt = kinds.foldl (fun x k => if s.mbox[k].fresh then P.side k s.mbox[k].body x else x) s.sideSt ∧
      ((apply P s).2 = true ↔ writes ≠ []) := by
  intro writes
  obtain ⟨-, h2, h3, h4⟩ := applyLoop_spec P kinds (List.nodup_finRange 21) (s, [])
  simp only [List.nil_append] at h4
  refine ⟨?_, ?_, ?_⟩
  · simp only [apply, State.withGroups]; rw [h4, h2]
  · simp only [apply, State.withGroups]; rw [h3]
  · simp only [apply]; rw [h4]
    change (writes.map groupOf != []) = true ↔ _
    simp

end Sys2Proof.Machine
end

