-- ==== Sys2Proof/Laws/Codec.lean ====
section
/-! SUPPORT. What the codec commands can do, each said once. -/

namespace Sys2Proof.Machine

/-- `MSG_PUSH` changes `TXQ`, the counters and the response (R82, R93). -/
theorem msgPush_frame (P : Params) (b : Byte) (body : List Byte) (s : State) :
    msgPush P b body s =
      { s with txq := (msgPush P b body s).txq, cnt := (msgPush P b body s).cnt, response := (msgPush P b body s).response } := by
  unfold msgPush
  split
  · rfl
  · split <;> [rfl; (split <;> [rfl; (split <;> rfl)])]

/-- `TXQ` grows by one whole frame or not at all (R34). -/
theorem msgPush_txq (P : Params) (b : Byte) (body : List Byte) (s : State) :
    (msgPush P b body s).txq = s.txq ∨
      ∃ k, kindOf? b = some k ∧ body.length = lenOf P k ∧ frameSize P k ≤ MSG_LEN_MAX ∧ frameSize P k ≤ txFree P s ∧
        (msgPush P b body s).txq = s.txq ++ encodeFrame P k body := by
  unfold msgPush
  split
  · exact .inl rfl
  · rename_i k hk
    split
    · exact .inl rfl
    · split
      · exact .inl rfl
      · split
        · exact .inl rfl
        · exact .inr ⟨k, by simp_all⟩

/-- A kind whose frame is consumed has all of it in the queue (R86). -/
theorem popOutcome_size {P : Params} {q : List Byte} {k : Kind}
    (h : popOutcome P q = .checksumMismatch k ∨ ∃ body, popOutcome P q = .message k body) : frameSize P k ≤ q.length := by
  unfold popOutcome at h
  simp only at h
  repeat' split at h
  all_goals simp at h
  all_goals (subst_vars; omega)

/-- The body of a decoded message has `len_k` bytes (R88). -/
theorem popOutcome_body {P : Params} {q : List Byte} {k : Kind} {body : List Byte} (h : popOutcome P q = .message k body) :
    body.length = lenOf P k := by
  have hs := popOutcome_size (.inr ⟨body, h⟩)
  unfold popOutcome at h
  simp only at h
  repeat' split at h
  all_goals simp at h
  obtain ⟨rfl, rfl⟩ := h
  simp only [List.length_take, List.length_drop]
  simp only [frameSize, CRC_LEN] at hs ⊢
  omega

/-- How many bytes an outcome consumes (R160). -/
def consumedBy (P : Params) : PopOutcome → Nat
  | .incomplete => 0
  | .unknownId => 1
  | .schemaMismatch => 1
  | .checksumMismatch k => frameSize P k
  | .message k _ => frameSize P k

/-- `MSG_POP` changes `RXQ`, the mailbox, the counters and the response (R90, R93). -/
theorem msgPop_frame (P : Params) (s : State) :
    msgPop P s =
      { s with rxq := (msgPop P s).rxq, mbox := (msgPop P s).mbox, cnt := (msgPop P s).cnt, response := (msgPop P s).response } := by
  unfold msgPop
  split <;> rfl

/-- `MSG_POP` takes the outcome's bytes off the front of `RXQ` (R33, R90). -/
theorem msgPop_rxq (P : Params) (s : State) : (msgPop P s).rxq = s.rxq.drop (consumedBy P (popOutcome P s.rxq)) := by
  unfold msgPop
  rw [rxPeek_all]
  split <;> simp_all [consumedBy, rxDrop]

/-- The mailbox after `MSG_POP`: the decoded body is in its kind's box, the other boxes are as before (R88). -/
theorem msgPop_mbox (P : Params) (s : State) :
    (msgPop P s).mbox = s.mbox ∨ ∃ k body, popOutcome P s.rxq = .message k body ∧
      (msgPop P s).mbox = s.mbox.set k.val ⟨true, body⟩ := by
  unfold msgPop
  rw [rxPeek_all]
  split
  · exact .inl rfl
  · exact .inl rfl
  · exact .inl rfl
  · exact .inl rfl
  · exact .inr ⟨_, _, by assumption, rfl⟩

/-- A `MSG_POP` that is not `INCOMPLETE` consumes at least one byte (R97). -/
theorem msgPop_progress (P : Params) (s : State) :
    lastStatus (msgPop P s) = some .incomplete ∨ (msgPop P s).rxq.length < s.rxq.length := by
  have hlen : popOutcome P s.rxq ≠ .incomplete → 0 < s.rxq.length := by
    intro h
    cases hq : s.rxq with
    | nil => simp [popOutcome, hq, MSG_LEN_MIN] at h
    | cons => simp
  cases ho : popOutcome P s.rxq with
  | incomplete => left; simp [msgPop, ho, lastStatus]
  | unknownId | schemaMismatch | checksumMismatch _ | message _ _ =>
    right
    have := hlen (by simp [ho])
    simp only [msgPop_rxq, ho, consumedBy, List.length_drop, frameSize, HEAD_LEN]
    omega

/-- The outcome on a queue that starts with the head of kind `k`: what is left to check is the size and the CRC (R86 to R88). -/
theorem popOutcome_head {P : Params} (hid : P.idsDistinct = true) (k : Kind) (q : List Byte) (h6 : 6 ≤ q.length + 4) :
    let r := P.registry k
    let Q := r.id :: r.len :: r.token.extractLsb' 0 8 :: r.token.extractLsb' 8 8 :: q
    popOutcome P Q = if Q.length < frameSize P k then .incomplete
      else if P.crc16 (Q.take (4 + lenOf P k)) ≠ wireCrc P k (Q.take (frameSize P k)) then .checksumMismatch k
      else .message k (q.take (lenOf P k)) := by
  intro r Q
  unfold popOutcome
  have hl : ¬ Q.length < MSG_LEN_MIN := by simp [Q, MSG_LEN_MIN]; omega
  simp only [hl, if_false]
  have hh : headUnpack (Q.take HEAD_LEN) = headOf P k := by simp [Q, HEAD_LEN, headUnpack, headOf, r]
  simp only [hh]
  simp only [headOf, lookupById_id hid k, ne_eq, not_true, or_self, if_false, List.take_take]
  have e1 : min (4 + lenOf P k) (frameSize P k) = 4 + lenOf P k := by simp [frameSize, HEAD_LEN]
  rw [show HEAD_LEN = 4 from rfl, e1]
  split
  · rfl
  · split
    · rfl
    · congr 1
      simp only [List.drop_take, List.take_take, frameSize, HEAD_LEN, Q, List.drop_succ_cons, List.drop_zero]
      congr 1
      omega

/-- The outcome on a whole frame with the wire CRC `c1 c0`, whatever follows it (R87, R88). -/
theorem popOutcome_frame (s : State) (k : Kind) (body : List Byte) (c0 c1 : Byte) (q : List Byte)
    (hb : body.length = lenOf s.params k) :
    let r := s.params.registry k
    let covered := [r.id, r.len, r.token.extractLsb' 0 8, r.token.extractLsb' 8 8] ++ body
    popOutcome s.params (covered ++ [c0, c1] ++ q) = if s.params.crc16 covered ≠ (c1 ++ c0 : Half) then .checksumMismatch k else .message k body := by
  intro r covered
  have e : covered ++ [c0, c1] ++ q = r.id :: r.len :: r.token.extractLsb' 0 8 :: r.token.extractLsb' 8 8 :: (body ++ [c0,c1] ++ q) := by simp [covered]
  rw [e, popOutcome_head s.idsDistinct k _ (by simp; omega), if_neg]
  · rw [← e]
    have hc : covered.length = 4 + lenOf s.params k := by simp [covered, hb]; omega
    have e1 : (covered ++ [c0, c1] ++ q).take (4 + lenOf s.params k) = covered := by
      rw [← hc, List.append_assoc, List.take_left']; rfl
    have e2 : wireCrc s.params k ((covered ++ [c0, c1] ++ q).take (frameSize s.params k)) = c1 ++ c0 := by
      have : (covered ++ [c0, c1] ++ q).take (frameSize s.params k) = covered ++ [c0,c1] := by
        rw [List.take_left']; simp [hc, frameSize, HEAD_LEN, CRC_LEN]
      rw [this, wireCrc, HEAD_LEN, ← hc, ofLe16_append]
      simp
    rw [e1, e2]
    congr 2
    rw [List.append_assoc, List.take_left' hb]
  · simp [frameSize, HEAD_LEN, CRC_LEN, hb]; omega

end Sys2Proof.Machine
end

