-- ==== Sys2Proof/Laws/PerInstr.lean ====
section
/-! SUPPORT. Statements about all commands, one lemma per constructor of `Instr`. -/

namespace Sys2Proof.Laws

/-- The decoder reads back every command whose word is legal, whatever its operand and data (R58 to R61). -/
def EncodeDecode.Statement (i : Instr) : Prop := i.wordLegal = true → decode (encode i).1 (encode i).2 = .ok i

theorem EncodeDecode.nop : EncodeDecode.Statement .nop := fun _ => by decide

theorem EncodeDecode.regById (id : Byte) : EncodeDecode.Statement (.regById id) := fun _ => by
  simp [encode, decode, takesNoData, OP_NOP, OP_REG_BY_ID]

theorem EncodeDecode.regByKind (s : Byte) : EncodeDecode.Statement (.regByKind s) := fun h => by
  simp only [Instr.wordLegal] at h
  simp [encode, decode, takesNoData, h, OP_NOP, OP_REG_BY_ID, OP_REG_BY_KIND]

theorem EncodeDecode.msgPush (s : Byte) (body : List Byte) : EncodeDecode.Statement (.msgPush s body) := fun h => by
  simp only [Instr.wordLegal] at h
  simp [encode, decode, h, OP_NOP, OP_REG_BY_ID, OP_REG_BY_KIND, OP_MSG_PUSH]

theorem EncodeDecode.msgPop : EncodeDecode.Statement .msgPop := fun _ => by decide

theorem EncodeDecode.ctlInit : EncodeDecode.Statement .ctlInit := fun _ => by decide

theorem EncodeDecode.ctlProc : EncodeDecode.Statement .ctlProc := fun _ => by decide

theorem EncodeDecode.rdReg (sel : Byte) : EncodeDecode.Statement (.rdReg sel) := fun h => by
  simp only [Instr.wordLegal] at h
  simp [encode, decode, takesNoData, h, OP_NOP, OP_REG_BY_ID, OP_REG_BY_KIND, OP_MSG_PUSH, OP_MSG_POP, OP_CTL_INIT, OP_CTL_PROC,
    OP_RD_REG]

end Sys2Proof.Laws
end

