-- ==== Sys2Proof/Laws/PidBank.lean ====
section
/-! SUPPORT. The PID datapath: the clamp stays within its limit, a step that completes keeps R120, and what the cascades write. -/

namespace Sys2Proof.Machine

/-- A computation of two parts completes when both do. -/
theorem except_bind_ok {ε α β : Type} {x : Except ε α} {f : α → Except ε β} {b : β} :
    (x >>= f) = .ok b ↔ ∃ a, x = .ok a ∧ f a = .ok b := by
  cases x with
  | error e => exact ⟨fun h => (nomatch h), fun ⟨_, h, _⟩ => (nomatch h)⟩
  | ok a => exact ⟨fun h => ⟨a, rfl, h⟩, fun ⟨_, h, h'⟩ => by cases h; exact h'⟩

/-- What an admitted limit gives (R111). -/
theorem limit_facts {N : NumDomain} {limit : NUM} (h : limitAdmitted N limit = true) :
    N.isFinite limit = true ∧ N.gt NUM.zero limit = false := by
  simpa only [limitAdmitted, Bool.and_eq_true, Bool.not_eq_true'] using h

/-- A clamped value that is no NaN is within the limit (R112, R120). -/
theorem clamp_within {N : NumDomain} {x limit : NUM} (hl : limitAdmitted N limit = true)
    (hx : N.isNaN (clamp N x limit) = false) : N.within (clamp N x limit) limit = true := by
  obtain ⟨hf, hz⟩ := limit_facts hl
  have hn := N.finite_notNaN _ hf
  have hnn := N.finite_notNaN _ (N.neg_finite _ hf)
  unfold clamp at hx ⊢
  split
  · simp [NumDomain.within, NumDomain.le, hn, hnn, N.gt_irrefl, N.neg_le_self _ hf hz]
  · split
    · simp [NumDomain.within, NumDomain.le, hn, hnn, N.gt_irrefl, N.neg_le_self _ hf hz]
    · rename_i h1 h2
      simp only [h1, h2] at hx
      simp_all [NumDomain.within, NumDomain.le, NumDomain.lt]

/-- Zero is within every admitted limit (R120). -/
theorem zero_within {N : NumDomain} {limit : NUM} (hl : limitAdmitted N limit = true) : N.within NUM.zero limit = true := by
  obtain ⟨hf, hz⟩ := limit_facts hl
  simp [NumDomain.within, NumDomain.le, hz, N.neg_le_zero _ hf hz, N.finite_notNaN _ hf, N.finite_notNaN _ (N.neg_finite _ hf),
    N.finite_notNaN _ N.zero_finite]

/-- The limits of an admitted configuration (R111). -/
theorem cfg_limits {P : Params} (h : P.admitted = true) (i : PidIx) :
    limitAdmitted P.num (P.cfg i).ilim = true ∧ limitAdmitted P.num (P.cfg i).olim = true := by
  have hc := ((Params.admitted_iff P).mp h).2.2.2.2.2.1
  simp only [Params.cfgAdmitted, decide_eq_true_eq] at hc
  have := hc i
  simp_all [pidCfgAdmitted]

/-- The two ways a PID step completes (R113, R114, R118). -/
theorem pidStep_ok {N : NumDomain} {c : PidCfg} {r r' : PidRegs} {sp m dt : NUM} (h : pidStep N c r sp m dt = .ok r') :
    (N.gt dt NUM.zero = false ∧ r' = r) ∨
      (N.gt dt NUM.zero = true ∧ r' = pidNext N c r sp m dt ∧ N.isNaN r'.iacc = false ∧ N.isNaN r'.out = false) := by
  unfold pidStep at h
  cases hd : N.gt dt NUM.zero with
  | false => simp [hd] at h; exact .inl ⟨rfl, h.symm⟩
  | true =>
    simp only [hd, Bool.not_true, Bool.false_eq_true, if_false] at h
    split at h
    · cases h
    · cases h; simp_all

/-- A completed step keeps an instance within its limits (R120). -/
theorem pidStep_within {N : NumDomain} {c : PidCfg} {r r' : PidRegs} {sp m dt : NUM}
    (hi : limitAdmitted N c.ilim = true) (ho : limitAdmitted N c.olim = true)
    (hr : N.within r.iacc c.ilim = true ∧ N.within r.out c.olim = true) (h : pidStep N c r sp m dt = .ok r') :
    N.within r'.iacc c.ilim = true ∧ N.within r'.out c.olim = true := by
  rcases pidStep_ok h with ⟨-, rfl⟩ | ⟨-, rfl, hia, hu⟩
  · exact hr
  · exact ⟨clamp_within hi hia, clamp_within ho hu⟩

/-- A PID step on the bank writes its instance's registers and nothing else, and returns the new `OUT` (R118). -/
theorem pidStepAt_ok {P : Params} {i : PidIx} {sp m v : NUM} {s t : State} (h : pidStepAt P i sp m s = .ok (v, t)) :
    ∃ r, pidStep P.num (P.cfg i) s.pid[i] sp m P.dt = .ok r ∧ v = r.out ∧ t = s.withPid i r := by
  unfold pidStepAt at h
  split at h
  · cases h
  · rename_i r hr; cases h; exact ⟨r, hr, rfl, rfl⟩

/-- One gimbal axis: the position loop's output is the rate loop's setpoint (R123). -/
theorem gimbalAxis_ok {P : Params} {a : Fin 2} {s t : State} {v : NUM} (h : gimbalAxis P a s = .ok (v, t)) :
    ∃ rp rv, pidStep P.num (P.cfg (PidIx.gimbalPos a)) s.pid[PidIx.gimbalPos a] s.groups.gref.cur[a] s.groups.gpos.cur[a] P.dt = .ok rp ∧
      pidStep P.num (P.cfg (PidIx.gimbalRate a)) s.pid[PidIx.gimbalRate a] rp.out s.groups.grate.cur[a] P.dt = .ok rv ∧
      v = rv.out ∧ t = (s.withPid (PidIx.gimbalPos a) rp).withPid (PidIx.gimbalRate a) rv := by
  unfold gimbalAxis at h
  obtain ⟨⟨rs, s1⟩, h1, h2⟩ := except_bind_ok.mp h
  obtain ⟨rp, hrp, rfl, rfl⟩ := pidStepAt_ok h1
  obtain ⟨rv, hrv, rfl, rfl⟩ := pidStepAt_ok h2
  refine ⟨rp, rv, hrp, ?_, rfl, rfl⟩
  rw [State.withPid_get, if_neg (by simp [Fin.ext_iff])] at hrv
  exact hrv

/-- A computation of two parts faults when its first part does, or its second. -/
theorem except_bind_error {ε α β : Type} {x : Except ε α} {f : α → Except ε β} {e : ε} (h : (x >>= f) = .error e) :
    x = .error e ∨ ∃ a, f a = .error e := by
  cases x with
  | error e' => cases h; exact .inl rfl
  | ok a => exact .inr ⟨a, h⟩

/-- The one fault of a PID step (R119). -/
theorem pidStepAt_fault {P : Params} {i : PidIx} {sp m : NUM} {s : State} {f : Fault} (h : pidStepAt P i sp m s = .error f) : f = .mfPidNan := by
  unfold pidStepAt at h
  split at h
  · rename_i g hg
    cases h
    unfold pidStep at hg
    simp only at hg
    split at hg
    · cases hg
    · split at hg
      · cases hg; rfl
      · cases hg
  · cases h

theorem gimbalAxis_fault {P : Params} {a : Fin 2} {s : State} {f : Fault} (h : gimbalAxis P a s = .error f) : f = .mfPidNan := by
  rcases except_bind_error h with h | ⟨_, h⟩ <;> exact pidStepAt_fault h

/-- The one fault of step (2) (R119). -/
theorem cascade_fault {P : Params} {s : State} {f : Fault} (h : cascade P s = .error f) : f = .mfPidNan := by
  have chassis : ∀ {s : State}, chassisCascade P s = .error f → f = .mfPidNan := by
    intro s h
    unfold chassisCascade at h
    iterate 7
      rcases except_bind_error h with h | ⟨_, h⟩
      · exact pidStepAt_fault h
    cases h
  rcases except_bind_error h with h | ⟨_, h⟩
  · exact chassis h
  · unfold gimbalCascade at h
    iterate 2
      rcases except_bind_error h with h | ⟨_, h⟩
      · exact gimbalAxis_fault h
    cases h

/-- What step (2) changes: the PID registers and the commanded outputs (R135). -/
theorem cascade_frame {P : Params} {s t : State} (h : cascade P s = .ok t) :
    t = { s with pid := t.pid, cmdW := t.cmdW, cmdG := t.cmdG } := by
  unfold cascade chassisCascade gimbalCascade at h
  simp only [except_bind_ok, Prod.exists] at h
  obtain ⟨s1, ⟨_, _, h1, _, _, h2, _, _, h3, _, _, h4, _, _, h5, _, _, h6, _, _, h7, e⟩, _, _, h8, _, _, h9, e'⟩ := h
  obtain ⟨_, -, -, rfl⟩ := pidStepAt_ok h1
  obtain ⟨_, -, -, rfl⟩ := pidStepAt_ok h2
  obtain ⟨_, -, -, rfl⟩ := pidStepAt_ok h3
  obtain ⟨_, -, -, rfl⟩ := pidStepAt_ok h4
  obtain ⟨_, -, -, rfl⟩ := pidStepAt_ok h5
  obtain ⟨_, -, -, rfl⟩ := pidStepAt_ok h6
  obtain ⟨_, -, -, rfl⟩ := pidStepAt_ok h7
  cases e
  obtain ⟨_, _, -, -, -, rfl⟩ := gimbalAxis_ok h8
  obtain ⟨_, _, -, -, -, rfl⟩ := gimbalAxis_ok h9
  cases e'
  simp only [State.withPid, State.withCmdW, State.withCmdG]

/-- A completed step (2): every instance took one step, wired as R110 says, and the rate loops' outputs are the commanded outputs
(R122 to R124). -/
theorem cascade_ok {P : Params} {s t : State} (h : cascade P s = .ok t) :
    let ran := fun (i : PidIx) (sp m : NUM) => pidStep P.num (P.cfg i) s.pid[i] sp m P.dt = .ok t.pid[i]
    let wt := mecIK P #v[t.pid[4].out, t.pid[5].out, t.pid[6].out]
    (∀ j : Fin 3, ran (PidIx.chassis j) s.groups.cref.cur[j] s.groups.cmeas.cur[j]) ∧
      (∀ j : Fin 4, ran (PidIx.wheel j) wt[j] s.groups.wmeas.cur[j]) ∧
      (∀ a : Fin 2, ran (PidIx.gimbalPos a) s.groups.gref.cur[a] s.groups.gpos.cur[a] ∧
        ran (PidIx.gimbalRate a) t.pid[PidIx.gimbalPos a].out s.groups.grate.cur[a]) ∧
      t.cmdW = #v[t.pid[0].out, t.pid[1].out, t.pid[2].out, t.pid[3].out] ∧ t.cmdG = #v[t.pid[9].out, t.pid[10].out] := by
  unfold cascade chassisCascade gimbalCascade at h
  simp only [except_bind_ok, Prod.exists] at h
  obtain ⟨s1, ⟨_, _, h1, _, _, h2, _, _, h3, _, _, h4, _, _, h5, _, _, h6, _, _, h7, e⟩, _, _, h8, _, _, h9, e'⟩ := h
  obtain ⟨r4, g4, rfl, rfl⟩ := pidStepAt_ok h1
  obtain ⟨r5, g5, rfl, rfl⟩ := pidStepAt_ok h2
  obtain ⟨r6, g6, rfl, rfl⟩ := pidStepAt_ok h3
  obtain ⟨r0, g0, rfl, rfl⟩ := pidStepAt_ok h4
  obtain ⟨r1, g1, rfl, rfl⟩ := pidStepAt_ok h5
  obtain ⟨r2, g2, rfl, rfl⟩ := pidStepAt_ok h6
  obtain ⟨r3, g3, rfl, rfl⟩ := pidStepAt_ok h7
  cases e
  obtain ⟨r7, r9, g7, g9, rfl, rfl⟩ := gimbalAxis_ok h8
  obtain ⟨r8, r10, g8, g10, rfl, rfl⟩ := gimbalAxis_ok h9
  cases e'
  simp only [State.withPid, State.withCmdW, State.withCmdG, Fin.getElem_fin, Vector.getElem_set] at g0 g1 g2 g3 g4 g5 g6 g7 g8 g9 g10 ⊢
  refine ⟨fun j => ?_, fun j => ?_, fun a => ?_, ?_, ?_⟩
  · fin_cases j
    · simpa using g4
    · simpa using g5
    · simpa using g6
  · fin_cases j
    · simpa using g0
    · simpa using g1
    · simpa using g2
    · simpa using g3
  · fin_cases a
    · exact ⟨by simpa using g7, by simpa using g9⟩
    · exact ⟨by simpa using g8, by simpa using g10⟩
  · simp
  · simp

/-- A PID step has a result exactly when it gives no NaN (R113, R119). -/
theorem pidStep_isOk {N : NumDomain} {c : PidCfg} {r : PidRegs} {sp m dt : NUM} :
    (∃ r', pidStep N c r sp m dt = .ok r') ↔
      (N.gt dt NUM.zero = true → N.isNaN (pidNext N c r sp m dt).iacc = false ∧ N.isNaN (pidNext N c r sp m dt).out = false) := by
  unfold pidStep
  cases N.gt dt NUM.zero with
  | false => simp
  | true =>
    cases h1 : N.isNaN (pidNext N c r sp m dt).iacc <;> cases h2 : N.isNaN (pidNext N c r sp m dt).out <;> simp [h1, h2]

/-- The output of a PID step that has a result (R113, R114). -/
theorem pidStep_out {N : NumDomain} {c : PidCfg} {r r' : PidRegs} {sp m dt : NUM} (h : pidStep N c r sp m dt = .ok r') :
    r'.out = if N.gt dt NUM.zero then (pidNext N c r sp m dt).out else r.out := by
  rcases pidStep_ok h with ⟨hd, rfl⟩ | ⟨hd, rfl, -⟩ <;> simp [hd]

/-- A PID step on the bank completes when the instance's step does. -/
theorem pidStepAt_of {P : Params} {i : PidIx} {sp m : NUM} {s : State} {r : PidRegs}
    (h : pidStep P.num (P.cfg i) s.pid[i] sp m P.dt = .ok r) : pidStepAt P i sp m s = .ok (r.out, s.withPid i r) := by
  unfold pidStepAt; rw [h]

/-- Step (2) completes when each of the eleven steps has a result (R122 to R124). -/
theorem cascade_of {P : Params} {s : State} {q : PidIx → PidRegs}
    (hc : ∀ j : Fin 3, pidStep P.num (P.cfg (PidIx.chassis j)) s.pid[PidIx.chassis j] s.groups.cref.cur[j] s.groups.cmeas.cur[j] P.dt = .ok (q (PidIx.chassis j)))
    (hw : ∀ j : Fin 4, pidStep P.num (P.cfg (PidIx.wheel j)) s.pid[PidIx.wheel j]
      (mecIK P #v[(q (PidIx.chassis 0)).out, (q (PidIx.chassis 1)).out, (q (PidIx.chassis 2)).out])[j] s.groups.wmeas.cur[j] P.dt = .ok (q (PidIx.wheel j)))
    (hp : ∀ a : Fin 2, pidStep P.num (P.cfg (PidIx.gimbalPos a)) s.pid[PidIx.gimbalPos a] s.groups.gref.cur[a] s.groups.gpos.cur[a] P.dt = .ok (q (PidIx.gimbalPos a)))
    (hr : ∀ a : Fin 2, pidStep P.num (P.cfg (PidIx.gimbalRate a)) s.pid[PidIx.gimbalRate a] (q (PidIx.gimbalPos a)).out s.groups.grate.cur[a] P.dt = .ok (q (PidIx.gimbalRate a))) :
    ∃ t, cascade P s = .ok t := by
  have ne : ∀ {i j : PidIx} {w : State} {r : PidRegs}, i.val ≠ j.val → (w.withPid i r).pid[j] = w.pid[j] := by
    intro i j w r h; rw [State.withPid_get, if_neg (fun e => h (congrArg Fin.val e))]
  unfold cascade chassisCascade gimbalCascade gimbalAxis
  simp only [except_bind_ok, Prod.exists]
  refine ⟨_, _, ⟨_, _, pidStepAt_of (hc 0), _, _, pidStepAt_of (r := q (PidIx.chassis 1)) ?_, _, _, pidStepAt_of (r := q (PidIx.chassis 2)) ?_,
    _, _, pidStepAt_of (r := q (PidIx.wheel 0)) ?_, _, _, pidStepAt_of (r := q (PidIx.wheel 1)) ?_, _, _, pidStepAt_of (r := q (PidIx.wheel 2)) ?_,
    _, _, pidStepAt_of (r := q (PidIx.wheel 3)) ?_, rfl⟩, _, _, ⟨_, _, pidStepAt_of (r := q (PidIx.gimbalPos 0)) ?_, pidStepAt_of (r := q (PidIx.gimbalRate 0)) ?_⟩,
    _, _, ⟨_, _, pidStepAt_of (r := q (PidIx.gimbalPos 1)) ?_, pidStepAt_of (r := q (PidIx.gimbalRate 1)) ?_⟩, rfl⟩
  · rw [ne (by decide)]; exact hc 1
  · rw [ne (by decide), ne (by decide)]; exact hc 2
  · repeat rw [ne (by decide)]
    exact hw 0
  · repeat rw [ne (by decide)]
    exact hw 1
  · repeat rw [ne (by decide)]
    exact hw 2
  · repeat rw [ne (by decide)]
    exact hw 3
  · simp only [State.withCmdW_pid]; repeat rw [ne (by decide)]
    exact hp 0
  · rw [ne (by decide)]; simp only [State.withCmdW_pid]; repeat rw [ne (by decide)]
    exact hr 0
  · rw [ne (by decide), ne (by decide)]; simp only [State.withCmdW_pid]; repeat rw [ne (by decide)]
    exact hp 1
  · rw [ne (by decide), ne (by decide), ne (by decide)]; simp only [State.withCmdW_pid]; repeat rw [ne (by decide)]
    exact hr 1

end Sys2Proof.Machine
end

