-- ==== Sys2Proof/Laws/Readback.lean ====
section
/-! SUPPORT. The selector map and what a readback can do. -/

namespace Sys2Proof.Machine

/-- What `exec` answers for `RD_REG` (R150, R162). -/
theorem exec_rdReg_next {sel : Byte} {s t : State} : exec (.rdReg sel) s = .next t ↔ rdReg sel s = .ok t := by
  unfold exec execRdReg
  simp only
  split <;> simp [*]

/-- A completed readback changes the response only (R43, R150). -/
theorem rdReg_frame {sel : Byte} {s t : State} (h : rdReg sel s = .ok t) : t = { s with response := t.response } := by
  unfold rdReg at h
  split at h
  · cases h; rfl
  · split at h
    · cases h
    · cases h; rfl

/-- A selector that names a register is listed (R151). -/
theorem selOf?_listed (sel : Byte) : (selOf? sel).isSome = selectorListed sel := by
  revert sel; decide

end Sys2Proof.Machine
end

