-- ==== Sys2Proof/Laws/Scheduler.lean ====
section
/-! SUPPORT. What a tick can do, said once, and how a command answers. -/

namespace Sys2Proof.Machine

/-- The end of a tick in closed form (R136 to R138). -/
theorem finishTick_eq (P : Params) (fresh : Bool) (s : State) :
    finishTick P fresh s = (checkStale (heartbeat P fresh (dispatch s))).respond
      ⟨.ok, .sched (checkStale (heartbeat P fresh (dispatch s))).sched⟩ := rfl

/-- A completed tick is the end of what `Apply` and the cascades left (R132). -/
theorem ctlProc_ok {P : Params} {s t : State} (h : ctlProc P s = .ok t) :
    s.sched ≠ .uninitialized ∧
      ∃ u, cascadeIfRunning P (apply P (startTick s)).1 = .ok u ∧ t = finishTick P (apply P (startTick s)).2 u := by
  unfold ctlProc tick at h
  split at h
  · cases h
  · simp only at h
    split at h
    · cases h
    · cases h; exact ⟨by assumption, _, by assumption, rfl⟩

/-- Step (2) leaves everything but the PID registers and the outputs (R135). -/
theorem cascadeIfRunning_frame {P : Params} {s t : State} (h : cascadeIfRunning P s = .ok t) :
    t = { s with pid := t.pid, cmdW := t.cmdW, cmdG := t.cmdG } := by
  unfold cascadeIfRunning at h
  split at h
  · exact cascade_frame h
  · cases h; rfl

/-- The end of a tick leaves everything but the outputs, `WDG_AGE`, `SCHED`, the sink and the response. -/
theorem finishTick_frame (P : Params) (fresh : Bool) (s : State) :
    finishTick P fresh s =
      { s with cmdW := (finishTick P fresh s).cmdW, cmdG := (finishTick P fresh s).cmdG, wdgAge := (finishTick P fresh s).wdgAge,
               sched := (finishTick P fresh s).sched, sink := (finishTick P fresh s).sink,
               response := (finishTick P fresh s).response } := by
  simp only [finishTick, checkStale]
  split <;> rfl

/-- What `exec` answers for `CTL_PROC` (R132, R162). -/
theorem exec_ctlProc_next {s t : State} : exec .ctlProc s = .next t ↔ ctlProc s.params s = .ok t := by
  unfold exec execCtlProc
  simp only
  split <;> simp [*]

/-- `CTL_PROC` leaves the counters, the queues, the link, the pending steps and the block's tag (R132, R199). -/
theorem ctlProc_frame {P : Params} {s t : State} (h : ctlProc P s = .ok t) :
    t.cnt = s.cnt ∧ t.rxq = s.rxq ∧ t.txq = s.txq ∧ t.link = s.link ∧ t.pending = s.pending ∧ t.config = s.config := by
  obtain ⟨-, u, hu, rfl⟩ := ctlProc_ok h
  have hs : startTick s = { s with sched := (startTick s).sched } := by unfold startTick; split <;> rfl
  rw [finishTick_frame, cascadeIfRunning_frame hu, apply_frame, hs]
  simp

/-- Step (0) changes `SCHED` only (R133). -/
theorem startTick_frame (s : State) : startTick s = { s with sched := (startTick s).sched } := by unfold startTick; split <;> rfl

@[simp] theorem startTick_mbox (s : State) : (startTick s).mbox = s.mbox := by rw [startTick_frame]
@[simp] theorem startTick_groups (s : State) : (startTick s).groups = s.groups := by rw [startTick_frame]
@[simp] theorem startTick_sideSt (s : State) : (startTick s).sideSt = s.sideSt := by rw [startTick_frame]
@[simp] theorem startTick_wdgAge (s : State) : (startTick s).wdgAge = s.wdgAge := by rw [startTick_frame]

/-- The watchdog's age after a tick (R137). -/
theorem finishTick_age (P : Params) (fresh : Bool) (s : State) :
    (finishTick P fresh s).wdgAge = if fresh then 0 else ageAdd s.wdgAge P.ctlPeriodMs := by
  rw [finishTick_eq]; unfold checkStale; split <;> rfl

/-- A completed tick, in terms of the writes of the tick. -/
theorem ctlProc_apply {s t : State} (h : ctlProc s.params s = .ok t) :
    t.groups = latchPrev ((tickWrites s).map groupOf) s.groups ((tickWrites s).foldl writeCur s.groups) ∧
    t.sideSt = tickSide s ∧ (∀ k : Kind, t.mbox[k] = ⟨false, s.mbox[k].body⟩) ∧
    (tickWrites s ≠ [] → t.wdgAge = 0) ∧ (tickWrites s = [] → t.wdgAge = ageAdd s.wdgAge s.params.ctlPeriodMs) := by
  obtain ⟨-, u, hu, rfl⟩ := ctlProc_ok h
  obtain ⟨g1, g2, g3⟩ := apply_spec s.params (startTick s)
  have m := fun k => apply_mbox s.params (startTick s) k
  have ha := congrArg State.wdgAge (apply_frame s.params (startTick s))
  simp only [startTick_mbox, startTick_groups, startTick_sideSt, startTick_wdgAge] at g1 g2 g3 m ha
  have hu' := cascadeIfRunning_frame hu
  have hf := finishTick_frame s.params (apply s.params (startTick s)).2 u
  have hw : ∀ x : List GroupWrite, x = tickWrites s → x = tickWrites s := fun _ h => h
  generalize (apply s.params (startTick s)).2 = fresh at *
  generalize (apply s.params (startTick s)).1 = v at *
  have e := finishTick_age s.params fresh u
  refine ⟨?_, ?_, fun k => ?_, fun h => ?_, fun h => ?_⟩
  · rw [hf, hu']; exact g1
  · rw [hf, hu']; exact g2
  · rw [hf, hu']; exact m k
  · rw [e, if_pos (g3.mpr h)]
  · rw [e, if_neg (fun h' => g3.mp h' h), hu', ha]

/-- A block that is ready starts running (R133). -/
theorem startTick_ready {s : State} (h : s.sched = .ready ∨ s.sched = .running) : (startTick s).sched = .running := by
  unfold startTick; rcases h with h | h <;> simp [h]

/-- A tick completes when the block is initialised and step (2) has a result (R132). -/
theorem exec_ctlProc_of_cascade {s u : State} (hs : s.sched ≠ .uninitialized) (hu : cascadeIfRunning s.params (apply s.params (startTick s)).1 = .ok u) :
    exec .ctlProc s = .next (finishTick s.params (apply s.params (startTick s)).2 u) := by
  apply exec_ctlProc_next.mpr
  unfold ctlProc tick
  rw [if_neg hs]
  dsimp only
  rw [hu]

/-- `SCHED` after a tick: a running block whose watchdog is stale is faulted (R138). -/
theorem finishTick_sched (P : Params) (f : Bool) (u : State) :
    (finishTick P f u).sched = if u.sched = .running ∧ ERR_TSK_TMS < (finishTick P f u).wdgAge.toNat then .faulted else u.sched := by
  rw [finishTick_age]
  rw [finishTick_eq]
  unfold checkStale
  have e : (heartbeat P f (dispatch u)).wdgAge = if f then 0 else ageAdd u.wdgAge P.ctlPeriodMs := rfl
  have e2 : (heartbeat P f (dispatch u)).sched = u.sched := rfl
  rw [e, e2]
  by_cases hh : u.sched = .running ∧ ERR_TSK_TMS < (if f then (0 : Word) else ageAdd u.wdgAge P.ctlPeriodMs).toNat
  · rw [if_pos hh, if_pos hh]; rfl
  · rw [if_neg hh, if_neg hh]; rfl

/-- What a tick does to `SCHED` (R130, R133, R138). -/
theorem ctlProc_sched {s t : State} (h : ctlProc s.params s = .ok t) :
    s.sched ≠ .uninitialized ∧
    (s.sched = .faulted → t.sched = .faulted) ∧
    (s.sched ≠ .faulted → t.sched = if ERR_TSK_TMS < t.wdgAge.toNat then .faulted else .running) := by
  obtain ⟨hn, u, hu, rfl⟩ := ctlProc_ok h
  have hfr := congrArg State.sched (apply_frame s.params (startTick s))
  have hu' := congrArg State.sched (cascadeIfRunning_frame hu)
  dsimp only at hfr hu'
  rw [hfr] at hu'
  refine ⟨hn, fun h => ?_, fun h => ?_⟩
  · rw [finishTick_sched, hu', if_neg]
    · simp [startTick, h]
    · simp [startTick, h]
  · have : u.sched = .running := by
      rw [hu']; apply startTick_ready; cases hc : s.sched <;> simp_all
    rw [finishTick_sched, this]
    simp

/-- A tick's step (2) has a result exactly when none of its PID steps gives a NaN (R119, R135). -/
theorem cascadeIfRunning_isOk (s : State) (hn : s.sched ≠ .uninitialized) :
    (∃ u, cascadeIfRunning s.params (apply s.params (startTick s)).1 = .ok u) ↔ TickDefined s := by
  have hsch := congrArg State.sched (apply_frame s.params (startTick s))
  have hpid := congrArg State.pid (apply_frame s.params (startTick s))
  have hg := (apply_spec s.params (startTick s)).1
  simp only [startTick_mbox, startTick_groups] at hg
  have hp : (startTick s).pid = s.pid := by rw [startTick_frame]
  dsimp only at hsch hpid
  rw [hp] at hpid
  generalize (apply s.params (startTick s)).1 = v at *
  by_cases hf : s.sched = .faulted
  · have : v.sched ≠ .running := by rw [hsch]; simp [startTick, hf]
    simp only [TickDefined, hf, true_or, iff_true]
    exact ⟨v, if_neg this⟩
  · have hr : v.sched = .running := by rw [hsch]; apply startTick_ready; cases h : s.sched <;> simp_all
    have hcur : ∀ {n} (b : Bool) (o g : Snapshot n), (latchOne b o g).cur = g.cur := fun b o g => (latchOne_spec b o g).1
    have e : v.groups.cref.cur = ((tickWrites s).foldl writeCur s.groups).cref.cur ∧ v.groups.cmeas.cur = ((tickWrites s).foldl writeCur s.groups).cmeas.cur ∧
        v.groups.wmeas.cur = ((tickWrites s).foldl writeCur s.groups).wmeas.cur ∧ v.groups.gref.cur = ((tickWrites s).foldl writeCur s.groups).gref.cur ∧
        v.groups.gpos.cur = ((tickWrites s).foldl writeCur s.groups).gpos.cur ∧ v.groups.grate.cur = ((tickWrites s).foldl writeCur s.groups).grate.cur := by
      rw [hg]; simp only [latchPrev, hcur]; exact ⟨rfl, rfl, rfl, rfl, rfl, rfl⟩
    obtain ⟨e1, e2, e3, e4, e5, e6⟩ := e
    simp only [TickDefined, hf, false_or, cascadeIfRunning, hr, if_true]
    rw [← e1, ← e2, ← e3, ← e4, ← e5, ← e6]
    constructor
    · rintro ⟨u, hu⟩
      obtain ⟨c1, c2, c3, -, -⟩ := cascade_ok hu
      simp only [hpid] at c1 c2 c3
      have o1 := fun j => pidStep_out (c1 j)
      have o3 := fun a => pidStep_out (c3 a).1
      refine ⟨fun j => pidStep_isOk.mp ⟨_, c1 j⟩, fun j => pidStep_isOk.mp ⟨u.pid[PidIx.wheel j], ?_⟩, fun a => ⟨pidStep_isOk.mp ⟨_, (c3 a).1⟩, pidStep_isOk.mp ⟨u.pid[PidIx.gimbalRate a], ?_⟩⟩⟩
      · simp only [stepOutput]; rw [← o1 0, ← o1 1, ← o1 2]; exact c2 j
      · simp only [stepOutput]; rw [← o3 a]; exact (c3 a).2
    · rintro ⟨d1, d2, d3⟩
      choose r1 h1 using fun j => pidStep_isOk.mpr (d1 j)
      choose r2 h2 using fun j => pidStep_isOk.mpr (d2 j)
      choose r3 h3 using fun a => pidStep_isOk.mpr (d3 a).1
      choose r4 h4 using fun a => pidStep_isOk.mpr (d3 a).2
      have o1 := fun j => pidStep_out (h1 j)
      have o3 := fun a => pidStep_out (h3 a)
      simp only [stepOutput] at h2 h4
      rw [← o1 0, ← o1 1, ← o1 2] at h2
      let q : PidIx → PidRegs := fun i => if h : i.val < 4 then r2 ⟨i.val, h⟩ else if h' : i.val < 7 then r1 ⟨i.val - 4, by omega⟩ else if h'' : i.val < 9 then r3 ⟨i.val - 7, by omega⟩ else r4 ⟨i.val - 9, by omega⟩
      have q1 : ∀ j : Fin 3, q (PidIx.chassis j) = r1 j := by intro j; fin_cases j <;> rfl
      have q2 : ∀ j : Fin 4, q (PidIx.wheel j) = r2 j := by intro j; fin_cases j <;> rfl
      have q3 : ∀ j : Fin 2, q (PidIx.gimbalPos j) = r3 j := by intro j; fin_cases j <;> rfl
      have q4 : ∀ j : Fin 2, q (PidIx.gimbalRate j) = r4 j := by intro j; fin_cases j <;> rfl
      refine cascade_of (q := q) ?_ ?_ ?_ ?_
      · intro j; rw [q1, hpid]; exact h1 j
      · intro j; rw [q1, q1, q1, q2, hpid]; exact h2 j
      · intro a; rw [q3, hpid]; exact h3 a
      · intro a; rw [q3, q4, hpid, o3 a]; exact h4 a

end Sys2Proof.Machine
end

