-- ==== Sys2Proof/Laws/Step.lean ====
section
/-! SUPPORT. What a step and what a command can do, each said once. -/

namespace Sys2Proof.Machine

/-- What a step can be. -/
theorem step_cases {s t : State} (h : step s = .next t) :
    (s.pending = [] ∧ t = s) ∨
    (∃ b rest, s.pending = .rxPush b :: rest ∧ t = rxPush s.params b (s.withPending rest)) ∨
    (∃ b q rest, s.pending = .txPop :: rest ∧ s.txq = b :: q ∧ t = ((s.withPending rest).withTxq q).sendByte b) ∨
    (∃ w d rest i, s.pending = .command w d :: rest ∧ decode w d = .ok i ∧ exec i (s.withPending rest) = .next t) ∨
    (∃ w d rest e, s.pending = .command w d :: rest ∧ decode w d = .error e ∧ t = illegalWord w (s.withPending rest)) := by
  unfold step runNext takePending at h
  cases hp : s.pending with
  | nil => exact .inl ⟨rfl, by simpa [hp] using h.symm⟩
  | cons e rest =>
    simp only [hp] at h
    cases e with
    | rxPush b => exact .inr (.inl ⟨b, rest, rfl, by simpa [runPortStep] using h.symm⟩)
    | txPop =>
      simp only [runPortStep, txPop] at h
      split at h
      · cases h
      · rename_i b q hq
        cases h
        exact .inr (.inr (.inl ⟨b, q, rest, rfl, hq, rfl⟩))
    | command w d =>
      simp only [runPortStep, issue] at h
      split at h
      · rename_i i hi
        exact .inr (.inr (.inr (.inl ⟨w, d, rest, i, rfl, hi, h⟩)))
      · rename_i e he
        cases h
        exact .inr (.inr (.inr (.inr ⟨w, d, rest, e, rfl, he, rfl⟩)))

/-- What a command that completes can change: the lookups, the readback and `NOP` only answer; the codec commands change the codec side; the
control commands change the control side. -/
theorem exec_cases {i : Instr} {s t : State} (h : exec i s = .next t) :
    match i with
    | .nop | .regById _ | .regByKind _ | .rdReg _ => t = { s with response := t.response }
    | .msgPush b body => t = msgPush s.params b body s
    | .msgPop => t = msgPop s.params s
    | .ctlInit => t = ctlInit s
    | .ctlProc => ctlProc s.params s = .ok t := by
  cases i with
  | nop => cases h; rfl
  | regById a => simp only [exec, execRegById, regById] at h; split at h <;> cases h <;> rfl
  | regByKind a => simp only [exec, execRegByKind, regByKind] at h; split at h <;> cases h <;> rfl
  | msgPush a b => cases h; rfl
  | msgPop => cases h; rfl
  | ctlInit => cases h; rfl
  | ctlProc => exact exec_ctlProc_next.mp h
  | rdReg a => exact rdReg_frame (exec_rdReg_next.mp h)

/-- Where a tick faults: before the first `CTL_INIT` (R141), or at a NaN of a PID step (R119). -/
theorem ctlProc_fault {P : Params} {s : State} {f : Fault} (h : ctlProc P s = .error f) :
    (s.sched = .uninitialized ∧ f = .mfProcBeforeInit) ∨ (s.sched ≠ .uninitialized ∧ f = .mfPidNan) := by
  unfold ctlProc at h
  split at h
  · cases h; exact .inl ⟨by assumption, rfl⟩
  · refine .inr ⟨by assumption, ?_⟩
    unfold tick cascadeIfRunning at h
    simp only at h
    split at h
    · rename_i g hg
      cases h
      split at hg
      · exact cascade_fault hg
      · cases hg
    · cases h

/-- Where a readback faults: an "init" register before the first `CTL_INIT` (R152). -/
theorem rdReg_fault {sel : Byte} {s : State} {f : Fault} (h : rdReg sel s = .error f) :
    s.sched = .uninitialized ∧ f = .mfReadBeforeInit := by
  unfold rdReg at h
  split at h
  · cases h
  · split at h
    · rename_i hc; cases h; simp_all
    · cases h

/-- Which commands fault, and how (R162); no command is refused. -/
theorem exec_fault {i : Instr} {s : State} {f : Fault} (h : exec i s = .fault f) :
    match i with
    | .ctlProc => (s.sched = .uninitialized ∧ f = .mfProcBeforeInit) ∨ (s.sched ≠ .uninitialized ∧ f = .mfPidNan)
    | .rdReg _ => s.sched = .uninitialized ∧ f = .mfReadBeforeInit
    | _ => False := by
  cases i with
  | ctlProc =>
    simp only [exec, execCtlProc] at h
    split at h
    · cases h
    · rename_i g hg; cases h; exact ctlProc_fault hg
  | rdReg sel =>
    simp only [exec, execRdReg] at h
    split at h
    · cases h
    · rename_i g hg; cases h; exact rdReg_fault hg
  | _ => cases h

/-- A step that faults is a command that faults (R162). -/
theorem step_fault {s : State} {f : Fault} (h : step s = .fault f) :
    ∃ w d rest i, s.pending = .command w d :: rest ∧ decode w d = .ok i ∧ exec i (s.withPending rest) = .fault f := by
  unfold step runNext takePending at h
  cases hp : s.pending with
  | nil => simp [hp] at h
  | cons e rest =>
    simp only [hp] at h
    cases e with
    | rxPush b => cases h
    | txPop => simp only [runPortStep, txPop] at h; split at h <;> cases h
    | command w d =>
      simp only [runPortStep, issue] at h
      split at h
      · rename_i i hi; exact ⟨w, d, rest, i, rfl, hi, h⟩
      · cases h

/-- A command that completes answers one of the codes of its row (R161). -/
theorem exec_status {i : Instr} {s t : State} (h : exec i s = .next t) : ∃ r, t.response = some r ∧ statusAllowed i r.status = true := by
  cases i with
  | nop => cases h; exact ⟨_, rfl, rfl⟩
  | regById a => simp only [exec, execRegById, regById] at h; split at h <;> cases h <;> exact ⟨_, rfl, rfl⟩
  | regByKind a => simp only [exec, execRegByKind, regByKind] at h; split at h <;> cases h <;> exact ⟨_, rfl, rfl⟩
  | msgPush a b =>
    simp only [exec, execMsgPush, msgPush] at h
    repeat' split at h
    all_goals cases h; exact ⟨_, rfl, rfl⟩
  | msgPop =>
    simp only [exec, execMsgPop, msgPop] at h
    split at h <;> cases h <;> exact ⟨_, rfl, rfl⟩
  | ctlInit => cases h; exact ⟨_, rfl, rfl⟩
  | ctlProc =>
    obtain ⟨-, u, -, rfl⟩ := ctlProc_ok (exec_ctlProc_next.mp h)
    exact ⟨_, rfl, rfl⟩
  | rdReg a =>
    replace h := exec_rdReg_next.mp h
    unfold rdReg at h
    split at h
    · cases h; exact ⟨_, rfl, rfl⟩
    · split at h
      · cases h
      · cases h; exact ⟨_, rfl, rfl⟩

end Sys2Proof.Machine
end

