-- ==== Sys2Proof/Tests/RefConfig.lean ====
section
/-! SUPPORT. Frames and start states of spec/95_test_vectors.md, for the tests and the witnesses: the block with the reference
configuration. -/

namespace Sys2Proof.Tests

open Sys2Proof.Machine

/-- The single-instance configuration of 95, section 3.6. -/
def oneCfg (mode : DMode) : PidCfg := ⟨eighths 16, eighths 4, eighths 2, eighths 8, eighths 32, mode⟩

/-- The frame `F_ODO1` (95, section 1). -/
def odo1 : List Byte :=
  [0x04, 0x10, 0x03, 0xA5, 0x01, 0x00, 0x00, 0x00, 0xDC, 0x05, 0x00, 0x00, 0x00, 0x00, 0x00, 0x00, 0x00, 0x00, 0x00, 0x00, 0xFA, 0x65]

/-- The body of `F_ODO1`. -/
def odo1Body : List Byte := (odo1.drop 4).take 16

/-- The frame `F_STATU`. -/
def statu : List Byte := [0x0D, 0x04, 0x0C, 0xA5, 0x78, 0x56, 0x34, 0x12, 0xB5, 0x5C]

/-- The frame `F_CALIB`, the smallest there is. -/
def calib : List Byte := [0x0F, 0x00, 0x0E, 0xA5, 0x6F, 0xD9]

/-- The bodies of `F_VHC`, `F_PTZ` and `F_MOTOR`. -/
def vhcBody : List Byte := [0x07, 0, 0, 0, 0xD0, 0x07, 0, 0, 0x18, 0xFC, 0xFF, 0xFF, 0xF4, 0x01, 0, 0]
def ptzBody : List Byte := [0x03, 0, 0, 0, 0xE8, 0x03, 0, 0, 0x0C, 0xFE, 0xFF, 0xFF]
def motorBody : List Byte := [0x09, 0, 0, 0, 0xE8, 0x03, 0, 0, 0xDC, 0x05, 0, 0, 0x0C, 0xFE, 0xFF, 0xFF, 0, 0, 0, 0]

/-- The state after power-on under the test configuration. -/
def boot : State := State.resetOf .reference

/-- The state after power-on with the bytes `l` in `RXQ`. -/
def bootRx (l : List Byte) : State := boot.withRxq l

/-- The state after `CTL_INIT`. -/
def ready : State := initControl boot

/-- The state before tick 1 of program P2: four decoded messages wait. -/
def beforeP2 : State := ((((ready.withMail 3 ⟨true, odo1Body⟩).withMail 4 ⟨true, ptzBody⟩).withMail 6 ⟨true, vhcBody⟩).withMail 11 ⟨true, motorBody⟩)

/-- The block with the variant configuration, with `IMU`, `VRC`, `VHC` and `STATU` decoded. -/
def beforeVariant : State :=
  ((((initControl (State.resetOf .variant)).withMail 0 ⟨true, [0xE8, 0x03, 0, 0]⟩).withMail 5 ⟨true, [0xE8, 0x03, 0, 0]⟩).withMail 6
    ⟨true, vhcBody⟩).withMail 12 ⟨true, [0xE8, 0x03, 0, 0]⟩

/-- A running block whose watchdog stands at `age`, with nothing decoded. -/
def runningAt (age : Word) : State := (ready.withSched .running).withAge age

/-- A faulted block whose watchdog stands at `age`, with `F_ODO1` decoded. -/
def faultedAt (age : Word) : State := ((ready.withSched .faulted).withAge age).withMail 3 ⟨true, odo1Body⟩

/-- `s` with the step `e` of an agent as the next one. -/
def then' (e : PortStep) (s : State) : State := s.withPending [e]

/-- The next state, where there is one. -/
def nextOf : Host.Outcome State Fault Refusal → Option State
  | .next t => some t
  | .fault _ => none
  | .refused _ => none

/-- The fault, where there is one. -/
def faultOf : Host.Outcome State Fault Refusal → Option Fault
  | .next _ => none
  | .fault f => some f
  | .refused _ => none

/-- What a check of the next state shows. -/
theorem next_of_any {o : Host.Outcome State Fault Refusal} {p : State → Bool} (h : (nextOf o).any p = true) :
    ∃ t, o = .next t ∧ p t = true := by
  cases o with
  | next t => exact ⟨t, rfl, h⟩
  | fault f => cases h
  | refused r => cases h

/-- What a check of the fault shows. -/
theorem fault_of_eq {o : Host.Outcome State Fault Refusal} {f : Fault} (h : faultOf o = some f) : o = .fault f := by
  cases o with
  | next t => cases h
  | fault g => cases h; rfl
  | refused r => cases h

end Sys2Proof.Tests
end

