-- ==== Sys2Proof/Tests/Slice0.lean ====
section
/-! SUPPORT. The tests: expected results are the spec's own (spec/95_test_vectors.md and the bit patterns of spec/30_encoding.md R60), checked on one
word or one step of the block with the test configuration. -/

namespace Sys2Proof.Tests

set_option Elab.async false

open Sys2Proof.Machine

/-! ## Well-formedness: for each check a term that it refuses (R61) -/

theorem test_wf_refuses_kind_21 : (Instr.regByKind 21).wellFormed reference = false := by decide
theorem test_wf_refuses_push_kind_21 : (Instr.msgPush 21 []).wellFormed reference = false := by decide
theorem test_wf_refuses_short_body : (Instr.msgPush 3 (List.replicate 15 0)).wellFormed reference = false := by decide
theorem test_wf_refuses_selectors :
    ([0x0D, 0x0F, 0x36, 0x3F, 0x6C, 0xFF].all fun s => (Instr.rdReg s).wellFormed reference == false) = true := by decide
theorem test_wf_accepts_edges :
    (Instr.regByKind 20).wellFormed reference = true ∧ (Instr.msgPush 3 odo1Body).wellFormed reference = true ∧
      ([0x00, 0x0C, 0x10, 0x35, 0x40, 0x6B].all fun s => (Instr.rdReg s).wellFormed reference) = true := by decide

/-! ## Admission: for each condition a parameter set that it refuses (R71, R111, R36, R7, R67, R77) -/

def configureFails (P : Params) : Bool :=
  match configure P with
  | .error .mfConfig => true
  | _ => false

theorem test_configure_takes_reference : configureFails reference = false := by decide
theorem test_configure_refuses_equal_ids :
    configureFails { reference with registry := fun k => { refRow k with id := if k = 20 then 1 else (refRow k).id } } = true := by decide
theorem test_configure_refuses_equal_tokens :
    configureFails { reference with registry := fun k => { refRow k with token := if k = 20 then 0xA500 else (refRow k).token } } = true := by
  decide
theorem test_configure_refuses_layout :
    configureFails { reference with bodyLayout := fun k => if k = 14 then [⟨1, .raw, true⟩] else refLayout k } = true := by decide
theorem test_configure_refuses_zero_scale :
    configureFails { reference with registry := fun k => { refRow k with scale := if k = 0 then some NUM.zero else (refRow k).scale } } = true := by
  decide
theorem test_configure_refuses_odo_scale :
    configureFails { reference with registry := fun k => { refRow k with scale := if k = 3 then none else (refRow k).scale } } = true := by decide
theorem test_configure_refuses_negative_limit :
    configureFails { reference with cfg := fun i => { refCfg i with olim := eighths (-1) } } = true := by decide
theorem test_configure_refuses_small_queue : configureFails { reference with rxqCap := 255 } = true := by decide
theorem test_configure_refuses_zero_period : configureFails { reference with ctlPeriodMs := 0 } = true := by decide
theorem test_configure_refuses_type_index : configureFails { reference with msgTypeIdx := fun _ => 6 } = true := by decide

/-! ## Decoding: words written out bit by bit from R60 -/

theorem test_decode_nop : decode 0b0000000000000000#16 [] = .ok .nop := by decide
theorem test_decode_reg_by_id : decode 0b1111111100000001#16 [] = .ok (.regById 0xFF) := by decide
theorem test_decode_reg_by_kind : decode 0b0000001100000010#16 [] = .ok (.regByKind 3) := by decide
theorem test_decode_msg_push : decode 0b0000110000010000#16 [0x78, 0x56, 0x34, 0x12] = .ok (.msgPush 12 [0x78, 0x56, 0x34, 0x12]) := by decide
theorem test_decode_msg_pop : decode 0b0000000000010001#16 [] = .ok .msgPop := by decide
theorem test_decode_ctl_init : decode 0b0000000000100000#16 [] = .ok .ctlInit := by decide
theorem test_decode_ctl_proc : decode 0b0000000000100001#16 [] = .ok .ctlProc := by decide
theorem test_decode_rd_reg : decode 0b0011000100110000#16 [] = .ok (.rdReg 0x31) := by decide

/-- 95, section 3.1: the illegal words, each refused by the condition of R61 it breaks. -/
theorem test_decode_rejects :
    decode 0x0100 [] = .error (.operandNotZero 0x00 0x01) ∧ decode 0x0003 [] = .error (.reservedOpcode 0x03) ∧
      decode 0x00FF [] = .error (.reservedOpcode 0xFF) ∧ decode 0x1502 [] = .error (.kindOutOfRange 0x02 0x15) ∧
      decode 0x1510 [] = .error (.kindOutOfRange 0x10 0x15) ∧ decode 0x1511 [] = .error (.operandNotZero 0x11 0x15) ∧
      decode 0x0120 [] = .error (.operandNotZero 0x20 0x01) ∧ decode 0x0121 [] = .error (.operandNotZero 0x21 0x01) ∧
      decode 0x0D30 [] = .error (.selectorUnlisted 0x0D) ∧ decode 0x3630 [] = .error (.selectorUnlisted 0x36) ∧
      decode 0x6C30 [] = .error (.selectorUnlisted 0x6C) ∧ decode 0x0011 [0x00] = .error (.dataNotTaken 0x11) := by decide

/-- R65: a register by its name, a kind by its name, a decimal number, a comment. -/
theorem test_assemble_names :
    assemble "RD_REG PID10_OUT ; the last register".toList = some (.command (.rdReg 0x6B)) ∧
      assemble "REG_BY_KIND POS_CALIB".toList = some (.command (.regByKind 20)) ∧
      assemble "REG_BY_ID 4".toList = some (.command (.regById 4)) ∧ assemble "MSG_PUSH CALIB, []".toList = some (.command (.msgPush 14 [])) := by
  decide

/-- R65: lines that are not of the syntax. -/
theorem test_assemble_rejects :
    assemble "REG_BY_ID 256".toList = none ∧ assemble "NOP 1".toList = none ∧ assemble "MSG_PUSH ODO".toList = none ∧ assemble "HALT".toList = none := by
  decide

/-! ## The codec's functions (95, sections 1 and 3.2) -/

theorem test_crc_check_value : refCrc [0x31, 0x32, 0x33, 0x34, 0x35, 0x36, 0x37, 0x38, 0x39] = 0x6F91 ∧ refCrc [] = 0xFFFF := by decide +kernel
theorem test_head_pack : headPack ⟨0x04, 0x10, 0xA503⟩ = [0x04, 0x10, 0x03, 0xA5] ∧ headWord ⟨0x04, 0x10, 0xA503⟩ = 0xA5031004 := by decide
theorem test_head_unpack : headUnpack [0x04, 0x0F, 0x03, 0xA5] = ⟨0x04, 0x0F, 0xA503⟩ := by decide
theorem test_encode_odo : encodeFrame reference 3 odo1Body = odo1 := by decide +kernel
theorem test_physical_odo : physical reference 3 (f32OfInt 1500) = ⟨0x3FC00000⟩ := by decide +kernel

/-! ## One step of each command (95, section 3) -/

/-- The response of a command. -/
def respOf (i : Instr) (s : State) : Option Response := (nextOf (exec i s)).bind State.response

theorem test_nop : respOf .nop boot = some ⟨.ok, .none⟩ := by decide
theorem test_reg_by_id_odo : respOf (.regById 0x04) boot = some ⟨.ok, .row 3 0x04 16 0xA503 (some ⟨0x447A0000⟩)⟩ := by decide +kernel
theorem test_reg_by_id_none : respOf (.regById 0x16) boot = some ⟨.notFound, .none⟩ := by decide
theorem test_reg_by_kind_zgyro : respOf (.regByKind 10) boot = some ⟨.ok, .row 10 0x0B 8 0xA50A (some ⟨0x3C23D70A⟩)⟩ := by decide +kernel
theorem test_reg_by_kind_21 : respOf (.regByKind 21) boot = some ⟨.illegalCommand, .none⟩ := by decide

/-- V-ENC-7: the frame just fits. -/
theorem test_msg_push_fits :
    (nextOf (exec (.msgPush 3 odo1Body) (boot.withTxq (List.replicate 234 0)))).map (fun t => (t.txq.drop 234, t.cnt.pushOk, t.response)) =
      some (odo1, 1, some ⟨.ok, .written 22⟩) := by decide +kernel
/-- V-ENC-4: the frame would be longer than `MSG_LEN_MAX`. -/
theorem test_msg_push_overflow :
    (nextOf (exec (.msgPush 9 (List.replicate 251 0)) boot)).map (fun t => (t.txq, t.cnt.lenOverflow, t.response)) =
      some ([], 1, some ⟨.lengthOverflow, .written 0⟩) := by decide +kernel
/-- V-DEC-14: only the frame's own bytes are consumed. -/
theorem test_msg_pop_ok :
    (nextOf (exec .msgPop (bootRx (odo1 ++ [0x00])))).map (fun t => (t.rxq, t.mbox[3], t.cnt.popOk, t.response)) =
      some ([0x00], ⟨true, odo1Body⟩, 1, some ⟨.ok, .message 22 3 0x04 16 0xA503 odo1Body⟩) := by decide +kernel
/-- V-DEC-9: a flipped bit in the body. -/
theorem test_msg_pop_checksum :
    (nextOf (exec .msgPop (bootRx (odo1.set 8 0xDD)))).map (fun t => (t.rxq, t.cnt.checksum, t.response)) =
      some ([], 1, some ⟨.checksumMismatch, .consumed 22⟩) := by decide +kernel
/-- V-SCH-2. -/
theorem test_ctl_init : (nextOf (exec .ctlInit boot)).map (fun t => (t.sched, t.wdgAge, t.response)) = some (.ready, 0, some ⟨.ok, .sched .ready⟩) := by
  decide
/-- V-SCH-7: the way out of `Faulted` keeps the mailbox. -/
theorem test_ctl_init_from_faulted : (nextOf (exec .ctlInit (faultedAt 50))).map (fun t => (t.sched, t.wdgAge, t.mbox[3].fresh)) = some (.ready, 0, true) := by
  decide
/-- Program P2, tick 1: the dispatched values, and wheel 1's registers. -/
theorem test_ctl_proc_p2 :
    (nextOf (exec .ctlProc beforeP2)).map (fun t => (t.sink, t.pid[1], t.sched)) =
      some ([⟨#v[⟨0⟩, ⟨0xBF900000⟩, ⟨0xBEC00000⟩, ⟨0x3FC00000⟩], #v[⟨0x3F800000⟩, ⟨0xBF000000⟩]⟩],
        ⟨⟨0xBEC00000⟩, ⟨0xBFC00000⟩, ⟨0x3FC00000⟩, ⟨0xBF900000⟩⟩, .running) := by decide +kernel
/-- V-SCH-5 and V-SCH-4: strictly more than 100 ms faults. -/
theorem test_ctl_proc_stale :
    (nextOf (exec .ctlProc (runningAt 100))).map (fun t => (t.sched, t.wdgAge)) = some (.faulted, 110) ∧
      (nextOf (exec .ctlProc (runningAt 90))).map (fun t => (t.sched, t.wdgAge)) = some (.running, 100) := by decide +kernel
/-- R101 to R104, worked by hand: of two kinds that write `CREF` the higher one's values stand, and of two writes of one kind the later one; each
written group's `prev` is the start of the tick's `cur`; the side channel sees the kinds 0, 5, 6, 12 in this order. -/
theorem test_last_write_stands :
    (nextOf (exec .ctlProc beforeVariant)).map (fun t => (t.groups.cref, t.groups.cmeas.cur[2], t.groups.gpos.cur[1], t.sideSt.flags)) =
      some (⟨#v[⟨0x40000000⟩, ⟨0xBF800000⟩, ⟨0x3F000000⟩], #v[⟨0⟩, ⟨0⟩, ⟨0⟩]⟩, ⟨0x40000000⟩, ⟨0x3F800000⟩, (5 * 32 + 6) * 32 + 12) := by
  decide +kernel
/-- V-RD-5, V-RD-3 and V-RD-4: of the registers read at power-on, those marked "init" are the model fault. -/
theorem test_rd_reg_at_power_on :
    respOf (.rdReg 0x0A) (bootRx odo1) = some ⟨.ok, .u32 22⟩ ∧ faultOf (exec (.rdReg 0x01) boot) = some .mfReadBeforeInit ∧
      faultOf (exec (.rdReg 0x30) boot) = some .mfReadBeforeInit := by decide
/-- V-RD-6: bits 3 and 12. -/
theorem test_rd_reg_fresh :
    respOf (.rdReg 0x0C) ((boot.withMail 3 ⟨true, odo1Body⟩).withMail 12 ⟨true, []⟩) = some ⟨.ok, .u32 0x1008⟩ := by decide

/-! ## The PID step (95, section 3.6) -/

def pidOut (r : Except Fault PidRegs) : Option PidRegs :=
  match r with
  | .ok r => some r
  | .error _ => none

/-- V-PID-2: a step on error whose terms all count. -/
theorem test_pid_step_err :
    pidOut (pidStep binary32 (oneCfg .err) ⟨eighths 4, eighths 16, eighths 8, eighths 32⟩ (eighths 24) (eighths 16) (eighths 4)) =
      some ⟨eighths 6, eighths 8, eighths 16, eighths 18⟩ := by decide
/-- V-PID-7: a step on measurement. -/
theorem test_pid_step_meas :
    pidOut (pidStep binary32 (oneCfg .meas) PidRegs.zero (eighths 24) (eighths 8) (eighths 4)) =
      some ⟨eighths 4, eighths 16, eighths 8, eighths 32⟩ := by decide
/-- Section 3.8. -/
theorem test_mecanum : mecIK reference #v[eighths 4, eighths (-8), eighths 4] = #v[eighths 8, eighths 0, eighths (-8), eighths 16] := by decide

end Sys2Proof.Tests
end

