-- ==== Sys2Proof/Tests/Witness.lean ====
section
/-! SUPPORT. For every statement with hypotheses, a concrete state and operands that meet them, one for each clause and at the edges of the ranges,
on the block with the test configuration (spec/95_test_vectors.md). A witness shows the hypotheses only; the conclusions are the provers'. -/

namespace Sys2Proof.Tests

set_option Elab.async false

open Sys2Proof.Machine

/-! ## Command words -/

theorem witness_DecodeOfEncodeIsIdentity :
    (Instr.regByKind 20).wordLegal = true ∧ (Instr.msgPush 20 []).wordLegal = true ∧ (Instr.rdReg 0x6B).wordLegal = true ∧
      (Instr.regById 0xFF).wordLegal = true ∧ Instr.nop.wordLegal = true ∧ Instr.msgPop.wordLegal = true ∧ Instr.ctlInit.wordLegal = true ∧
      Instr.ctlProc.wordLegal = true := by decide

theorem witness_EncodeOfDecodeIsIdentity : decode 0x6B30 [] = .ok (.rdReg 0x6B) ∧ decode 0x1410 [0x01] = .ok (.msgPush 20 [0x01]) := by decide

theorem witness_WordMatchesAtMostOneRow :
    (∃ a ∈ opRows, a.matchesWord 0x6B30 = true) ∧ decode 0x6B30 [] = .ok (.rdReg 0x6B) := by decide

/-- Each of the six conditions of R61, at the edge of its range. -/
theorem witness_IllegalWordOnlyResponds_illegal :
    illegalPerR61 boot.params 0x0031 [] ∧ illegalPerR61 boot.params 0x0111 [] ∧ illegalPerR61 boot.params 0x1510 [] ∧
      illegalPerR61 boot.params 0x0D30 [] ∧ illegalPerR61 boot.params 0x0F30 [] ∧ illegalPerR61 boot.params 0x3630 [] ∧
      illegalPerR61 boot.params 0x3F30 [] ∧ illegalPerR61 boot.params 0x6C30 [] ∧ illegalPerR61 boot.params 0x0310 (List.replicate 15 0) ∧
      illegalPerR61 boot.params 0x0020 [0x00] ∧ illegalPerR61 boot.params 0x0021 [0x00] ∧ illegalPerR61 boot.params 0x0401 [0x00] := by
  and_intros <;> (dsimp only [illegalPerR61]; decide +kernel)

theorem witness_IllegalWordOnlyResponds_legal :
    ¬ illegalPerR61 boot.params 0x0000 [] ∧ ¬ illegalPerR61 boot.params 0x1402 [] ∧ ¬ illegalPerR61 boot.params 0x0310 odo1Body ∧
      ¬ illegalPerR61 boot.params 0x0C30 [] ∧ ¬ illegalPerR61 boot.params 0x1030 [] ∧ ¬ illegalPerR61 boot.params 0x3530 [] ∧
      ¬ illegalPerR61 boot.params 0x4030 [] ∧ ¬ illegalPerR61 boot.params 0x6B30 [] := by
  and_intros <;> (dsimp only [illegalPerR61]; decide +kernel)

/-! ## One step -/

/-- A word that decodes, and illegal words of an opcode without, with `written`, with `consumed` and with `sched` in its response. -/
theorem witness_StepRunsDecodedCommand :
    ((then' (.command 0x3130 []) ready).pending = .command 0x3130 [] :: [] ∧ decode 0x3130 [] = .ok (.rdReg 0x31)) ∧
      ((then' (.command 0x0031 []) ready).pending = .command 0x0031 [] :: [] ∧ decode 0x0031 [] = .error (.reservedOpcode 0x31)) ∧
      decode 0x1510 [] = .error (.kindOutOfRange 0x10 0x15) ∧ decode 0x0111 [] = .error (.operandNotZero 0x11 0x01) ∧
      decode 0x0020 [0x00] = .error (.dataNotTaken 0x20) ∧ decode 0x0121 [] = .error (.operandNotZero 0x21 0x01) := by decide

/-- A queue with room for one byte, and a full one. -/
theorem witness_RxPushAppendsOrDrops :
    (let s := then' (.rxPush 0xAA) (bootRx (List.replicate 511 0)); s.pending = [.rxPush 0xAA] ∧ s.rxq.length < s.params.rxqCap) ∧
      (let s := then' (.rxPush 0xAA) (bootRx (List.replicate 512 0)); s.pending = [.rxPush 0xAA] ∧ s.params.rxqCap ≤ s.rxq.length) := by
  decide +kernel

theorem witness_TxPopTakesOldestByte :
    (let s := then' .txPop (boot.withTxq [0x04]); s.pending = [.txPop] ∧ s.txq = [0x04]) ∧
      (let s := then' .txPop boot; s.pending = [.txPop] ∧ s.txq = []) := by decide

/-- A step that appends a byte, one that consumes a frame, one that leaves the queue. -/
theorem witness_ReceiveQueueIsFifo :
    (∃ t, step (then' (.rxPush 0xAA) boot) = .next t) ∧ (∃ t, step (then' (.command 0x0011 []) (bootRx odo1)) = .next t) ∧
      ∃ t, step (then' (.command 0x0000 []) (bootRx odo1)) = .next t := by
  refine ⟨?_, ?_, ?_⟩ <;> exact (next_of_any (p := fun _ => true) (by decide +kernel)).imp fun _ h => h.1

/-- A step that appends a frame, and one that sends a byte. -/
theorem witness_LinkCarriesWholeFramesInOrder :
    (∃ t, step (then' (.command 0x0310 odo1Body) boot) = .next t ∧ (t.txq == odo1) = true) ∧
      ∃ t, step (then' .txPop (boot.withTxq [0x04])) = .next t ∧ (t.link == [0x04]) = true := by
  refine ⟨?_, ?_⟩ <;> exact next_of_any (by decide +kernel)

/-! ## Frames, registry, configuration -/

/-- The empty body, and the longest body the test registry has. -/
theorem witness_FrameLayout :
    ([] : List Byte).length = (reference.registry 14).len.toNat ∧ (List.replicate 251 (0 : Byte)).length = (reference.registry 9).len.toNat := by
  decide +kernel

theorem witness_RegByIdAnswersItsRow : (∀ k : Kind, (boot.params.registry k).id ≠ 0x00) ∧ ∀ k : Kind, (boot.params.registry k).id ≠ 0x16 := by
  decide

theorem witness_RegByKindAnswersItsRow : (0x00 : Byte).toNat = (0 : Kind).val ∧ (20 : Byte).toNat = (20 : Kind).val ∧ 20 < (21 : Byte).toNat := by
  decide

/-- An admitted parameter set, and one that is not. -/
theorem witness_ConfigurationIsCheckedOnce :
    (∃ C : Config, configure reference = .ok C ∧ C.params = reference) ∧ ¬ ∃ C : Config, configure { reference with rxqCap := 255 } = .ok C := by
  refine ⟨⟨referenceConfig, ?_, rfl⟩, fun ⟨C, h⟩ => ?_⟩
  · exact dif_pos referenceConfig.admitted
  · rw [configure, dif_neg (by decide)] at h; cases h

/-! ## The Frame Codec -/

/-- The clauses in order: kind 21; a body one byte short; a frame of 257 bytes; room for 21 bytes; room for 22. -/
theorem witness_MsgPushOutcomes :
    20 < (21 : Byte).toNat ∧ (3 : Byte).toNat = (3 : Kind).val ∧ (List.replicate 15 (0 : Byte)).length ≠ (boot.params.registry 3).len.toNat ∧
      ((List.replicate 251 (0 : Byte)).length = (boot.params.registry 9).len.toNat ∧ 256 < 6 + (boot.params.registry 9).len.toNat) ∧
      (let s := boot.withTxq (List.replicate 235 0);
        odo1Body.length = (s.params.registry 3).len.toNat ∧ s.params.txqCap - s.txq.length < 6 + (s.params.registry 3).len.toNat) ∧
      (let s := boot.withTxq (List.replicate 234 0);
        odo1Body.length = (s.params.registry 3).len.toNat ∧ 6 + (s.params.registry 3).len.toNat ≤ s.params.txqCap - s.txq.length) := by
  decide +kernel

theorem witness_MsgPopUnderrun : boot.rxq.length < 6 ∧ (bootRx (calib.take 5)).rxq.length < 6 := by decide

theorem witness_MsgPopUnknownId :
    let s := bootRx [0x00, 1, 2, 3, 4, 5]
    s.rxq = 0x00 :: [1, 2, 3, 4, 5] ∧ 6 ≤ s.rxq.length ∧ ∀ k : Kind, (s.params.registry k).id ≠ 0x00 := by decide

/-- A wrong length, and a wrong token. -/
theorem witness_MsgPopSchemaMismatch :
    (let s := bootRx [0x0F, 0x01, 0x0E, 0xA5, 0x6F, 0xD9]; let r := s.params.registry 14
      s.rxq = r.id :: 0x01 :: 0x0E :: 0xA5 :: [0x6F, 0xD9] ∧ 6 ≤ s.rxq.length ∧ (0x01 : Byte) ≠ r.len) ∧
      (let s := bootRx [0x0F, 0x00, 0x0E, 0xA4, 0x6F, 0xD9]; let r := s.params.registry 14
        s.rxq = r.id :: 0x00 :: 0x0E :: 0xA4 :: [0x6F, 0xD9] ∧ 6 ≤ s.rxq.length ∧ (0xA4#8 ++ 0x0E#8 : Half) ≠ r.token) := by decide

/-- A frame without its last byte. -/
theorem witness_MsgPopIncompleteFrame :
    let s := bootRx (odo1.take 21); let r := s.params.registry 3
    s.rxq = [r.id, r.len, r.token.extractLsb' 0 8, r.token.extractLsb' 8 8] ++ (odo1.take 21).drop 4 ∧ s.rxq.length < 6 + r.len.toNat := by
  decide +kernel

/-- The smallest frame with a wrong CRC. -/
theorem witness_MsgPopChecksumMismatch :
    let s := bootRx [0x0F, 0x00, 0x0E, 0xA5, 0x6E, 0xD9]; let r := s.params.registry 14
    let covered := [r.id, r.len, r.token.extractLsb' 0 8, r.token.extractLsb' 8 8] ++ ([] : List Byte)
    ([] : List Byte).length = r.len.toNat ∧ s.rxq = covered ++ [0x6E, 0xD9] ++ [] ∧ s.params.crc16 covered ≠ (0xD9#8 ++ 0x6E#8 : Half) := by
  decide +kernel

/-- The smallest frame, alone; and `F_ODO1` before a byte of the next frame. -/
theorem witness_MsgPopSuccess :
    (let s := bootRx calib; let r := s.params.registry 14
      let covered := [r.id, r.len, r.token.extractLsb' 0 8, r.token.extractLsb' 8 8] ++ ([] : List Byte)
      ([] : List Byte).length = r.len.toNat ∧ s.rxq = covered ++ [0x6F, 0xD9] ++ [] ∧ s.params.crc16 covered = (0xD9#8 ++ 0x6F#8 : Half)) ∧
      (let s := bootRx (odo1 ++ [0x0D]); let r := s.params.registry 3
        let covered := [r.id, r.len, r.token.extractLsb' 0 8, r.token.extractLsb' 8 8] ++ odo1Body
        odo1Body.length = r.len.toNat ∧ s.rxq = covered ++ [0xFA, 0x65] ++ [0x0D] ∧ s.params.crc16 covered = (0x65#8 ++ 0xFA#8 : Half)) := by
  decide +kernel

/-- A response that is not `OK`. -/
theorem witness_MsgPopFrame : ∃ t, exec .msgPop boot = .next t ∧ (lastStatus t != some .ok) = true := next_of_any (by decide +kernel)

theorem witness_PushThenPopRoundTrip :
    ∃ s t u : State, exec (.msgPush 3 odo1Body) s = .next t ∧ lastStatus t = some .ok ∧ t.txq = s.txq ++ odo1 ∧ u.config = s.config ∧
      u.rxq = odo1 ++ [0x0D] := by
  obtain ⟨t, h, hp⟩ := next_of_any (o := exec (.msgPush 3 odo1Body) boot)
    (p := fun t => decide (lastStatus t = some .ok ∧ t.txq = boot.txq ++ odo1)) (by decide +kernel)
  exact ⟨boot, t, bootRx (odo1 ++ [0x0D]), h, (of_decide_eq_true hp).1, (of_decide_eq_true hp).2, rfl, rfl⟩

/-- A flipped bit of the id, of the length, of the token's high byte, and of the body's last byte. -/
theorem witness_FlippedBitOutcomes :
    ∀ j ∈ [0, 1, 3, 19], let f := encodeFrame boot.params 3 odo1Body; let f' := f.modify j (fun x => x ^^^ (1#8 <<< 7))
      odo1Body.length = (boot.params.registry 3).len.toNat ∧ (bootRx f').rxq = f' ∧
        (4 ≤ j → j < 4 + odo1Body.length ∧ boot.params.crc16 (f'.take (4 + odo1Body.length)) ≠ boot.params.crc16 (f.take (4 + odo1Body.length))) := by
  decide +kernel

/-- A stray byte that is no id, and one that is an id. -/
theorem witness_ResyncAfterStrayByte :
    ∀ x ∈ [0xFF#8, 0x04#8], let r := boot.params.registry 3
      odo1Body.length = r.len.toNat ∧ (bootRx (x :: odo1)).rxq = x :: encodeFrame boot.params 3 odo1Body ∧
        ∀ j : Kind, ¬ ((boot.params.registry j).id = x ∧ (boot.params.registry j).len = r.id ∧
          (boot.params.registry j).token = (r.token.extractLsb' 0 8 ++ r.len : Half)) := by decide +kernel

/-- A response that is not `INCOMPLETE`, and one that is. -/
theorem witness_PopAllEnds :
    lastStatus (msgPop boot.params (bootRx odo1)) ≠ some .incomplete ∧ lastStatus (msgPop boot.params boot) = some .incomplete := by decide +kernel

/-! ## Ticks -/

/-- A tick with four writes, in `Ready`. -/
theorem witness_TickAppliesFreshMessages : ∃ t, exec .ctlProc beforeP2 = .next t ∧ (t.mbox[3].fresh == false) = true :=
  next_of_any (by decide +kernel)

/-- Every group written in one tick or another, and every group not written in one. -/
theorem witness_PreviousIsStartOfTick :
    (∃ t, exec .ctlProc beforeP2 = .next t) ∧ (∀ G ∈ [Group.cref, .cmeas, .wmeas, .gref], ∃ w ∈ tickWrites beforeP2, groupOf w = G) ∧
      ∀ G ∈ [Group.gpos, .grate], ¬ ∃ w ∈ tickWrites beforeP2, groupOf w = G :=
  ⟨(next_of_any (p := fun _ => true) (by decide +kernel)).imp fun _ h => h.1, by decide +kernel, by decide +kernel⟩

theorem witness_PreviousIsStartOfTick_variant :
    (∃ t, exec .ctlProc beforeVariant = .next t) ∧ (∀ G ∈ [Group.gpos, .grate], ∃ w ∈ tickWrites beforeVariant, groupOf w = G) ∧
      (∃ t, exec .ctlProc (runningAt 0) = .next t) ∧ ∀ G ∈ [Group.cref, .cmeas, .wmeas, .gref], ¬ ∃ w ∈ tickWrites (runningAt 0), groupOf w = G := by
  refine ⟨?_, by decide +kernel, ?_, by decide +kernel⟩ <;> exact (next_of_any (p := fun _ => true) (by decide +kernel)).imp fun _ h => h.1

/-- Of the six writes of `beforeVariant`, to `GPOS`, `GRATE`, `CREF` twice and `CMEAS` twice, the first two and the second of each pair are the last
ones of their groups. -/
theorem witness_LastWriteOfTickStands :
    (∃ t, exec .ctlProc beforeVariant = .next t) ∧
      ∀ n ∈ [0, 1, 3, 5], ∃ w ∈ (tickWrites beforeVariant)[n]?,
        tickWrites beforeVariant = (tickWrites beforeVariant).take n ++ w :: (tickWrites beforeVariant).drop (n + 1) ∧
          ∀ x ∈ (tickWrites beforeVariant).drop (n + 1), groupOf x ≠ groupOf w :=
  ⟨(next_of_any (p := fun _ => true) (by decide +kernel)).imp fun _ h => h.1, by decide +kernel⟩

/-- Above the limit, below its negative, at both edges, and for the limit 0; a NaN passes through. -/
theorem witness_ClampStaysWithinLimit :
    binary32.isFinite (eighths 16) = true ∧ binary32.gt NUM.zero (eighths 16) = false ∧ binary32.gt (eighths 17) (eighths 16) = true ∧
      (binary32.gt (eighths (-17)) (eighths 16) = false ∧ binary32.gt (binary32.neg (eighths 16)) (eighths (-17)) = true) ∧
      (binary32.gt (eighths (-16)) (eighths 16) = false ∧ binary32.gt (binary32.neg (eighths 16)) (eighths (-16)) = false) ∧
      binary32.isNaN (clamp binary32 (eighths 17) (eighths 16)) = false ∧ (binary32.isFinite NUM.zero = true ∧ binary32.gt NUM.zero NUM.zero = false) := by
  decide +kernel

/-- `DT` = 0; a NaN (an infinite measurement against the same infinite setpoint); a plain step. -/
theorem witness_PidStepFormula :
    binary32.gt NUM.zero NUM.zero = false ∧
      (binary32.gt (eighths 4) NUM.zero = true ∧
        binary32.isNaN (pidNext binary32 (oneCfg .err) PidRegs.zero ⟨0x7F800000⟩ ⟨0x7F800000⟩ (eighths 4)).iacc = true) ∧
      binary32.isNaN (pidNext binary32 (oneCfg .meas) PidRegs.zero (eighths 8) (eighths 4) (eighths 4)).iacc = false ∧
      binary32.isNaN (pidNext binary32 (oneCfg .meas) PidRegs.zero (eighths 8) (eighths 4) (eighths 4)).out = false := by decide +kernel

theorem witness_ProcBeforeInitFaults : boot.sched = .uninitialized := by decide

/-- A ready block whose reference and measurement are the same infinity. -/
def nanNext : State :=
  ready.withGroups { Groups.zero with cref := ⟨#v[⟨0x7F800000⟩, ⟨0⟩, ⟨0⟩], #v[⟨0⟩, ⟨0⟩, ⟨0⟩]⟩, cmeas := ⟨#v[⟨0x7F800000⟩, ⟨0⟩, ⟨0⟩], #v[⟨0⟩, ⟨0⟩, ⟨0⟩]⟩ }

theorem witness_TickCompletesUnlessNaN :
    (beforeP2.sched ≠ .uninitialized ∧ TickDefined beforeP2) ∧ (nanNext.sched ≠ .uninitialized ∧ ¬ TickDefined nanNext) := by decide +kernel

/-- Ready; running with an age that becomes 100; running with one that becomes 110. -/
theorem witness_RunningTickRunsTheCascades :
    (beforeP2.sched = .ready ∧ TickDefined beforeP2) ∧ ((runningAt 90).sched = .running ∧ TickDefined (runningAt 90)) ∧
      (runningAt 100).sched = .running ∧ TickDefined (runningAt 100) := by and_intros <;> decide +kernel

theorem witness_RunningTickRunsTheCascades_ages :
    (∃ t, exec .ctlProc (runningAt 90) = .next t ∧ (t.wdgAge == 100) = true) ∧ ∃ t, exec .ctlProc (runningAt 100) = .next t ∧ (t.wdgAge == 110) = true :=
  ⟨next_of_any (by decide +kernel), next_of_any (by decide +kernel)⟩

theorem witness_FaultedTickHoldsTheBank : (faultedAt 110).sched = .faulted := by decide

theorem witness_TickFrame : ∃ t, exec .ctlProc (faultedAt 110) = .next t ∧ (t.sched == .faulted) = true := next_of_any (by decide +kernel)

/-- A write; none; none, five below the largest age. -/
theorem witness_WatchdogCountsStaleTicks :
    ((∃ t, exec .ctlProc beforeP2 = .next t) ∧ tickWrites beforeP2 ≠ []) ∧ ((∃ t, exec .ctlProc (runningAt 90) = .next t) ∧ tickWrites (runningAt 90) = []) ∧
      (∃ t, exec .ctlProc (runningAt 0xFFFFFFFB) = .next t) ∧ tickWrites (runningAt 0xFFFFFFFB) = [] := by
  refine ⟨⟨?_, by decide +kernel⟩, ⟨?_, by decide +kernel⟩, ?_, by decide +kernel⟩ <;>
    exact (next_of_any (p := fun _ => true) (by decide +kernel)).imp fun _ h => h.1

theorem witness_FaultEntryZeroesOutputs : (∃ t, exec .ctlProc (runningAt 100) = .next t) ∧ (runningAt 100).sched ≠ .faulted :=
  ⟨(next_of_any (p := fun _ => true) (by decide +kernel)).imp fun _ h => h.1, by decide⟩

/-- A step that keeps `SCHED`, and each of the transitions. -/
theorem witness_SchedulerTransitions :
    (∃ t, step (then' .txPop (boot.withTxq [0x04])) = .next t ∧ (t.sched == .uninitialized) = true) ∧
      (∃ t, step (then' (.command 0x0020 []) (faultedAt 110)) = .next t ∧ (t.sched == .ready) = true) ∧
      (∃ t, step (then' (.command 0x0021 []) ready) = .next t ∧ (t.sched == .running) = true) ∧
      ∃ t, step (then' (.command 0x0021 []) (runningAt 100)) = .next t ∧ (t.sched == .faulted) = true := by
  refine ⟨?_, ?_, ?_, ?_⟩ <;> exact next_of_any (by decide +kernel)

/-- The state after `n` ticks without a write, where the pending steps give them. -/
def quietEnd : Nat → State → Option State
  | 0, s => some s
  | n + 1, s => (quietEnd n s).bind fun t => if t.pending.head? = some (.command 0x0021 []) ∧ tickWrites t = [] then nextOf (step t) else none

theorem quietEnd_run {s r : State} {m : Nat} (h : QuietRun s m r) : ∀ {n : Nat} {t : State}, quietEnd n r = some t → QuietRun s (m + n) t := by
  intro n
  induction n with
  | zero => intro t ht; cases ht; exact h
  | succ n ih =>
    intro t ht
    obtain ⟨u, hu, hs⟩ := Option.bind_eq_some_iff.mp ht
    split at hs
    · rename_i hc
      cases ho : step u with
      | next v =>
        rw [ho] at hs; cases hs
        obtain ⟨e, rest, hp⟩ : ∃ e rest, u.pending = e :: rest := by cases hp : u.pending <;> simp_all
        have he : e = .command 0x0021 [] := by simpa [hp] using hc.1
        exact .tick (ih hu) ⟨_, _, _, by rw [hp, he], by decide⟩ hc.2 ho
      | fault f => rw [ho] at hs; cases hs
      | refused f => rw [ho] at hs; cases hs
    · cases hs

/-- A ready block with a received byte and then `n` ticks to come. -/
def beforeQuiet (n : Nat) : State := ready.withPending (.rxPush 0xAA :: List.replicate n (.command 0x0021 []))

/-- Ten periods of 10 ms keep the block running, the eleventh faults it: the edge of R143. -/
theorem witness_WatchdogTiming :
    (∃ t, QuietRun (beforeQuiet 10) 10 t ∧ t.sched = .running) ∧ ∃ t, QuietRun (beforeQuiet 11) 11 t ∧ t.sched = .faulted := by
  have run : ∀ n v, ((nextOf (step (beforeQuiet n))).bind (quietEnd n)).any (fun t => t.sched == v) = true →
      ∃ t, QuietRun (beforeQuiet n) n t ∧ t.sched = v := by
    intro n v h
    obtain ⟨t, ht, hv⟩ : ∃ t, (nextOf (step (beforeQuiet n))).bind (quietEnd n) = some t ∧ (t.sched == v) = true := by
      cases hb : (nextOf (step (beforeQuiet n))).bind (quietEnd n) with
      | none => rw [hb] at h; cases h
      | some t => rw [hb] at h; exact ⟨t, rfl, h⟩
    obtain ⟨r, hr, hq⟩ := Option.bind_eq_some_iff.mp ht
    cases ho : step (beforeQuiet n) with
    | next r' =>
      rw [ho] at hr; cases hr
      have no : ∀ i, ¬ nextIs i (beforeQuiet n) := by rintro i ⟨w, d, rest, hp, -⟩; cases hp
      have := quietEnd_run (.other .start (no _) (no _) ho) hq
      exact ⟨t, by simpa using this, by simpa using hv⟩
    | fault f => rw [ho] at hr; cases hr
    | refused f => rw [ho] at hr; cases hr
  exact ⟨run 10 _ (by decide +kernel), run 11 _ (by decide +kernel)⟩

/-- A decoded frame: a step that is neither `CTL_INIT` nor `CTL_PROC`. -/
theorem witness_OnlyCtlCommandsWriteControl :
    let s := then' (.command 0x0011 []) (bootRx odo1)
    (∃ t, step s = .next t) ∧ ¬ nextIs .ctlInit s ∧ ¬ nextIs .ctlProc s := by
  refine ⟨(next_of_any (p := fun _ => true) (by decide +kernel)).imp fun _ h => h.1, ?_, ?_⟩ <;>
    (rintro ⟨w, d, rest, hp, hd⟩; cases hp; exact absurd hd (by decide))

/-! ## Readback -/

theorem witness_RdRegReadsSelectedRegister :
    ready.sched ≠ .uninitialized ∧ (bootRx odo1).rxq.length < 2 ^ 32 ∧ boot.txq.length < 2 ^ 32 ∧
      ([0x00, 0x0C, 0x01, 0x10, 0x35, 0x40, 0x6B].all fun n => (BitVec.ofNat 8 n).toNat == n) = true := by decide

theorem witness_FreshWordBits : 21 ≤ 21 ∧ (((boot.withMail 20 ⟨true, [0, 0, 0, 0]⟩).mbox)[20].fresh == true) = true := by decide

/-- The edges of the unlisted ranges, and those of the "init" ranges in `Uninitialized`. -/
theorem witness_RdRegStopsAndIllegal :
    (∀ sel ∈ [0x0D#8, 0x0F#8, 0x36#8, 0x3F#8, 0x6C#8, 0xFF#8],
        (0x0D ≤ sel.toNat ∧ sel.toNat ≤ 0x0F) ∨ (0x36 ≤ sel.toNat ∧ sel.toNat ≤ 0x3F) ∨ 0x6C ≤ sel.toNat) ∧
      (∀ sel ∈ [0x01#8, 0x10#8, 0x35#8, 0x40#8, 0x6B#8],
        sel.toNat = 0x01 ∨ (0x10 ≤ sel.toNat ∧ sel.toNat ≤ 0x35) ∨ (0x40 ≤ sel.toNat ∧ sel.toNat ≤ 0x6B)) ∧ boot.sched = .uninitialized := by decide

theorem witness_ReadsAreIdempotent :
    (∃ t, exec .nop boot = .next t) ∧ (∃ t, exec (.regById 0x04) boot = .next t) ∧ (∃ t, exec (.regByKind 21) boot = .next t) ∧
      ∃ t, exec (.rdReg 0x6B) ready = .next t := by
  refine ⟨?_, ?_, ?_, ?_⟩ <;> exact (next_of_any (p := fun _ => true) (by decide +kernel)).imp fun _ h => h.1

/-- A word of each opcode and of none, and a `REG_BY_ID` word that comes with a data operand. -/
theorem witness_StatusCodesPerCommand :
    (∀ w ∈ [0x0000#16, 0x0401#16, 0x0302#16, 0x0E10#16, 0x0011#16, 0x0020#16, 0x0021#16, 0x3130#16, 0x00FF#16], ∃ t, issue w [] ready = .next t) ∧
      ∃ t, issue 0x0401 [0x00] ready = .next t ∧ (lastStatus t == some .illegalCommand) = true := by
  have h : ([0x0000#16, 0x0401#16, 0x0302#16, 0x0E10#16, 0x0011#16, 0x0020#16, 0x0021#16, 0x3130#16, 0x00FF#16].all
      fun w => (nextOf (issue w [] ready)).any fun _ => true) = true := by decide +kernel
  exact ⟨fun w hw => (next_of_any (List.all_eq_true.mp h w hw)).imp fun _ h => h.1, next_of_any (by decide +kernel)⟩

/-- A running block, stale in its next tick, with a decoded message and its output registers as a tick leaves them. -/
theorem witness_StepKeepsInvariant :
    let s := then' (.command 0x0021 []) (runningAt 100)
    Inv s ∧ ∃ t, step s = .next t := by
  refine ⟨⟨by decide, by decide, by decide +kernel, fun _ => ?_, fun _ => ?_, fun h => ?_, by decide, fun h => ?_⟩, ?_⟩
  · unfold bankWithin; decide +kernel
  · unfold outputsWithin; decide +kernel
  · exact absurd h (by decide)
  · exact absurd h (by decide)
  · exact (next_of_any (p := fun _ => true) (by decide +kernel)).imp fun _ h => h.1

end Sys2Proof.Tests
end

section
/-! PROOFS. A step whose next event is a command word (R5, R42, R61, R154). -/

namespace Sys2Proof.Machine

/-- The next event of the list is taken off it and run. -/
theorem step_of_pending {s : State} {e : PortStep} {rest : List PortStep} (h : s.pending = e :: rest) :
    step s = runPortStep e (s.withPending rest) := by
  simp only [step, runNext, takePending, h]

theorem issue_of_decode_ok {w : Half} {d : List Byte} {i : Instr} (h : decode w d = .ok i) (s : State) :
    issue w d s = exec i s := by
  simp only [issue, h]

theorem issue_of_decode_error {w : Half} {d : List Byte} {e : DecodeError} (h : decode w d = .error e) (s : State) :
    issue w d s = .next (illegalWord w s) := by
  simp only [issue, h]

/-- R63, R154: the answer to an illegal word, with the opcode's field read off the word's own low byte. -/
theorem illegalWord_eq (w : Half) (s : State) :
    illegalWord w s = { s with response := some ⟨.illegalCommand,
      if w.extractLsb' 0 8 = 0x10#8 then .written 0
      else if w.extractLsb' 0 8 = 0x11#8 then .consumed 0
      else if w.extractLsb' 0 8 = 0x20#8 ∨ w.extractLsb' 0 8 = 0x21#8 then .sched s.sched
      else .none⟩ } := rfl

/-- Settles O8: the command word is taken off the list and issued, and `issue` splits on what the word decodes to. -/
theorem stepRunsDecodedCommand : Obligations.StepRunsDecodedCommand := by
  intro s w d rest hp u
  have hstep : step s = issue w d u := step_of_pending hp
  refine ⟨hstep, fun i hi => ?decodes, fun e he => ?illegal⟩
  case decodes => exact hstep.trans (issue_of_decode_ok hi u)
  case illegal => rw [hstep, issue_of_decode_error he u, illegalWord_eq]

end Sys2Proof.Machine
end

section
/-! PROOFS. Every step of every agent keeps the invariant of the block (R18, R19, R120, R131, R136, R138). A codec or port step leaves the
control side, so only the queues and the mailbox are to be looked at; a tick is the composition of its five steps, each of which keeps the
invariant by itself once step (0) has left `Ready`. -/

namespace Sys2Proof.Machine

/-! ## Steps that leave the control side -/

/-- A step that changes the queues, the mailbox and what the invariant does not speak of keeps the invariant when the queues still fit and
the bodies keep their lengths. -/
theorem Inv.of_codec_frame {s t : State} (h : Inv s)
    (ht : t = { s with rxq := t.rxq, txq := t.txq, mbox := t.mbox, cnt := t.cnt, pending := t.pending, response := t.response,
                       sink := t.sink, link := t.link })
    (hrx : t.rxq.length ≤ s.params.rxqCap) (htx : t.txq.length ≤ s.params.txqCap)
    (hmail : ∀ k : Kind, t.mbox[k].body.length = lenOf s.params k) : Inv t := by
  rw [ht]
  exact { h with rxFits := hrx, txFits := htx, mailFits := hmail }

/-- The counters, the steps to come, the response, the sink and the link are no part of the invariant. -/
theorem Inv.of_ports_frame {s t : State} (h : Inv s)
    (ht : t = { s with cnt := t.cnt, pending := t.pending, response := t.response, sink := t.sink, link := t.link }) : Inv t := by
  rw [ht]
  exact { h with }

/-- `RX_PUSH` changes `RXQ` and the counters (R32). -/
theorem rxPush_frame (P : Params) (b : Byte) (s : State) :
    rxPush P b s = { s with rxq := (rxPush P b s).rxq, cnt := (rxPush P b s).cnt } := by
  unfold rxPush
  split <;> rfl

/-- `RX_PUSH` takes a byte only below the capacity (R18, R32). -/
theorem rxPush_fits {P : Params} {s : State} (b : Byte) (h : s.rxq.length ≤ P.rxqCap) : (rxPush P b s).rxq.length ≤ P.rxqCap := by
  unfold rxPush
  split
  · simpa using ‹s.rxq.length < P.rxqCap›
  · exact h

/-- `MSG_PUSH` appends a frame only where it has room (R18, R34). -/
theorem msgPush_fits {P : Params} {s : State} (b : Byte) (body : List Byte) (h : s.txq.length ≤ P.txqCap) :
    (msgPush P b body s).txq.length ≤ P.txqCap := by
  rcases msgPush_txq P b body s with hq | ⟨k, -, hbody, -, hroom, hq⟩
  · rwa [hq]
  · rw [hq, List.length_append, encodeFrame_length P k body hbody]
    unfold txFree at hroom
    omega

/-- `MSG_POP` only takes bytes off `RXQ` (R18, R33). -/
theorem msgPop_fits {P : Params} {s : State} (h : s.rxq.length ≤ P.rxqCap) : (msgPop P s).rxq.length ≤ P.rxqCap := by
  rw [msgPop_rxq, List.length_drop]
  omega

/-- `MSG_POP` leaves in every mailbox a body of its kind's length (R19, R88). -/
theorem msgPop_mailFits {P : Params} {s : State} (h : ∀ k : Kind, s.mbox[k].body.length = lenOf P k) (k : Kind) :
    (msgPop P s).mbox[k].body.length = lenOf P k := by
  rcases msgPop_mbox P s with hm | ⟨j, body, hout, hm⟩
  · rw [hm]; exact h k
  · have hk := State.withMail_get s j k ⟨true, body⟩
    rw [State.withMail_mbox, ← hm] at hk
    rw [hk]
    split
    · next e => exact e ▸ popOutcome_body hout
    · exact h k

theorem Inv.rxPush {s : State} (h : Inv s) (b : Byte) : Inv (rxPush s.params b s) :=
  h.of_codec_frame (by rw [rxPush_frame]) (rxPush_fits b h.rxFits)
    (by rw [rxPush_frame]; exact h.txFits) (by rw [rxPush_frame]; exact h.mailFits)

theorem Inv.txPop {s : State} (h : Inv s) {b : Byte} {q : List Byte} (hq : s.txq = b :: q) : Inv ((s.withTxq q).sendByte b) := by
  refine h.of_codec_frame rfl h.rxFits (Nat.le_trans ?_ h.txFits) h.mailFits
  rw [hq]
  exact Nat.le_succ _

theorem Inv.msgPush {s : State} (h : Inv s) (b : Byte) (body : List Byte) : Inv (msgPush s.params b body s) :=
  h.of_codec_frame (by rw [msgPush_frame]) (by rw [msgPush_frame]; exact h.rxFits) (msgPush_fits b body h.txFits)
    (by rw [msgPush_frame]; exact h.mailFits)

theorem Inv.msgPop {s : State} (h : Inv s) : Inv (msgPop s.params s) :=
  h.of_codec_frame (by rw [msgPop_frame]) (msgPop_fits h.rxFits) (by rw [msgPop_frame]; exact h.txFits) (msgPop_mailFits h.mailFits)

/-! ## Limits: the zero control side and the cascades -/

/-- The bank as `CTL_INIT` leaves it is within its limits (R120, R131). -/
theorem bankWithin_zero {P : Params} (hP : P.admitted = true) : bankWithin P (Vector.replicate 11 PidRegs.zero) := by
  intro i
  obtain ⟨hilim, holim⟩ := cfg_limits hP i
  rw [Fin.getElem_fin, Vector.getElem_replicate]
  exact ⟨zero_within hilim, zero_within holim⟩

/-- Zero outputs are within their limits (R120, R138). -/
theorem outputsWithin_of_zero {P : Params} (hP : P.admitted = true) {s : State} (hz : outputsZero s) : outputsWithin P s := by
  obtain ⟨hw, hg⟩ := hz
  refine ⟨fun j => ?_, fun a => ?_⟩
  · rw [hw, Fin.getElem_fin, Vector.getElem_replicate]
    exact zero_within (cfg_limits hP _).2
  · rw [hg, Fin.getElem_fin, Vector.getElem_replicate]
    exact zero_within (cfg_limits hP _).2

/-- R110: the loops are all of the bank, so what holds of each loop holds of every index. -/
theorem PidIx.forall_of_loops {p : PidIx → Prop} (hwheel : ∀ j, p (PidIx.wheel j)) (hchassis : ∀ j, p (PidIx.chassis j))
    (hpos : ∀ a, p (PidIx.gimbalPos a)) (hrate : ∀ a, p (PidIx.gimbalRate a)) (i : PidIx) : p i := by
  fin_cases i
  exacts [hwheel 0, hwheel 1, hwheel 2, hwheel 3, hchassis 0, hchassis 1, hchassis 2, hpos 0, hpos 1, hrate 0, hrate 1]

/-- The cascades keep the bank within its limits, since each loop took one completed PID step (R120). -/
theorem cascade_bankWithin {P : Params} (hP : P.admitted = true) {s t : State} (h : cascade P s = .ok t)
    (hb : bankWithin P s.pid) : bankWithin P t.pid := by
  have hstep : ∀ {i : PidIx} {sp m : NUM}, pidStep P.num (P.cfg i) s.pid[i] sp m P.dt = .ok t.pid[i] →
      P.num.within t.pid[i].iacc (P.cfg i).ilim = true ∧ P.num.within t.pid[i].out (P.cfg i).olim = true :=
    fun {i _ _} hran => pidStep_within (cfg_limits hP i).1 (cfg_limits hP i).2 (hb i) hran
  obtain ⟨hchassis, hwheel, hgimbal, -, -⟩ := cascade_ok h
  exact PidIx.forall_of_loops (fun j => hstep (hwheel j)) (fun j => hstep (hchassis j))
    (fun a => hstep (hgimbal a).1) (fun a => hstep (hgimbal a).2)

/-- The outputs the cascades command are the rate loops' own, so a bank within its limits commands outputs within theirs (R120, R122, R123). -/
theorem cascade_outputsWithin {P : Params} {s t : State} (h : cascade P s = .ok t) (hb : bankWithin P t.pid) : outputsWithin P t := by
  obtain ⟨-, -, -, hw, hg⟩ := cascade_ok h
  refine ⟨fun j => ?_, fun a => ?_⟩
  · rw [hw]
    fin_cases j
    exacts [(hb 0).2, (hb 1).2, (hb 2).2, (hb 3).2]
  · rw [hg]
    fin_cases a
    exacts [(hb 9).2, (hb 10).2]

/-! ## The control commands -/

/-- `CTL_INIT` leaves the zero control side of `Ready` (R131). -/
theorem Inv.initControl {s : State} (h : Inv s) : Inv (initControl s) where
  rxFits := h.rxFits
  txFits := h.txFits
  mailFits := h.mailFits
  bank _ := bankWithin_zero s.params_admitted
  outputs _ := outputsWithin_of_zero s.params_admitted ⟨rfl, rfl⟩
  faultedZero hf := nomatch hf
  runningFresh hr := nomatch hr
  readyZero _ := ⟨rfl, rfl, ⟨rfl, rfl⟩, rfl⟩

/-- Entry into `Faulted` of an initialised block (R138). -/
theorem Inv.enterFaulted {s : State} (h : Inv s) (hn : s.sched ≠ .uninitialized) : Inv (enterFaulted s) where
  rxFits := h.rxFits
  txFits := h.txFits
  mailFits := h.mailFits
  bank _ := h.bank hn
  outputs _ := outputsWithin_of_zero s.params_admitted ⟨rfl, rfl⟩
  faultedZero _ := ⟨rfl, rfl⟩
  runningFresh hr := nomatch hr
  readyZero hr := nomatch hr

/-- A new age keeps the invariant outside `Ready`, where it has to be 0, when it is not stale in `Running`. -/
theorem Inv.withAge {s : State} (h : Inv s) {age : Word} (hready : s.sched ≠ .ready)
    (hage : s.sched = .running → age.toNat ≤ ERR_TSK_TMS) : Inv (s.withAge age) :=
  { h with runningFresh := hage, readyZero := fun hr => absurd hr hready }

/-- A `Ready` block has a fresh watchdog, so it may start running (R133, R138). -/
theorem Inv.startTick {s : State} (h : Inv s) : Inv (startTick s) := by
  unfold Machine.startTick
  split
  next hr =>
    have hn : s.sched ≠ .uninitialized := by simp [hr]
    obtain ⟨-, -, -, hage⟩ := h.readyZero hr
    exact { h with
      bank := fun _ => h.bank hn
      outputs := fun _ => h.outputs hn
      faultedZero := fun hf => nomatch hf
      runningFresh := fun _ => by simp [hage]
      readyZero := fun hr => nomatch hr }
  next => exact h

theorem startTick_not_ready (s : State) : (startTick s).sched ≠ .ready := by
  unfold startTick
  split
  · simp
  · assumption

/-- `Apply` keeps every body, and outside `Ready` the groups are free (R19, R100). -/
theorem Inv.apply {s : State} (h : Inv s) (hready : s.sched ≠ .ready) (P : Params) : Inv (apply P s).1 := by
  have hmail : ∀ k : Kind, (Machine.apply P s).1.mbox[k].body.length = lenOf s.params k := by
    intro k
    rw [apply_mbox]
    exact h.mailFits k
  have hframe := apply_frame P s
  generalize (Machine.apply P s).1 = t at hframe hmail ⊢
  rw [hframe]
  exact { h with mailFits := hmail, readyZero := fun hr => absurd hr hready }

/-- Step (2) writes the bank and the outputs within their limits, and in `Running` only (R120, R135). -/
theorem Inv.cascadeIfRunning {s t : State} (h : Inv s) (ht : cascadeIfRunning s.params s = .ok t) : Inv t := by
  unfold Machine.cascadeIfRunning at ht
  split at ht
  next hrun =>
    have hbank := cascade_bankWithin s.params_admitted ht (h.bank (by simp [hrun]))
    have hout := cascade_outputsWithin ht hbank
    rw [cascade_frame ht]
    exact { h with
      bank := fun _ => hbank
      outputs := fun _ => hout
      faultedZero := fun hf => nomatch hrun.symm.trans hf
      readyZero := fun hr => nomatch hrun.symm.trans hr }
  next => cases ht; exact h

/-- The heartbeat and the check after it: a running block whose new age is stale is faulted, any other keeps its control side (R137, R138). -/
theorem Inv.checkStale_withAge {s : State} (h : Inv s) (hready : s.sched ≠ .ready) (age : Word) : Inv (checkStale (s.withAge age)) := by
  unfold checkStale
  split
  next hstale =>
    have hrun : s.sched = .running := hstale.1
    exact (h.enterFaulted (by simp [hrun])).withAge (fun hr => nomatch hr) fun hr => nomatch hr
  next hfresh => exact h.withAge hready fun hrun => Nat.le_of_not_lt fun hlt => hfresh ⟨hrun, hlt⟩

/-- Steps (3) and (4) of a tick (R136 to R138). -/
theorem Inv.finishTick {s : State} (h : Inv s) (hready : s.sched ≠ .ready) (P : Params) (fresh : Bool) : Inv (finishTick P fresh s) := by
  have hdispatch : Inv (dispatch s) := h.of_ports_frame rfl
  rw [finishTick_eq]
  exact (hdispatch.checkStale_withAge hready _).of_ports_frame rfl

/-- Steps (0) and (1) of a tick leave the block's tag, and a block that is not ready (R133). -/
theorem apply_startTick_frame (P : Params) (s : State) :
    (apply P (startTick s)).1.config = s.config ∧ (apply P (startTick s)).1.sched ≠ .ready := by
  rw [apply_frame]
  exact ⟨by rw [startTick_frame], startTick_not_ready s⟩

/-- A tick: its steps (0) to (4), one after the other (R132). -/
theorem Inv.ctlProc {s t : State} (h : Inv s) (ht : ctlProc s.params s = .ok t) : Inv t := by
  obtain ⟨-, u, hu, rfl⟩ := ctlProc_ok ht
  obtain ⟨hconfig, hready⟩ := apply_startTick_frame s.params s
  have hparams := State.params_congr hconfig
  have happly : Inv (Machine.apply s.params (Machine.startTick s)).1 := h.startTick.apply (startTick_not_ready s) s.params
  generalize Machine.apply s.params (Machine.startTick s) = a at hu hready hparams happly ⊢
  have hsched : u.sched ≠ .ready := by rwa [cascadeIfRunning_frame hu]
  rw [← hparams] at hu
  exact (happly.cascadeIfRunning hu).finishTick hsched s.params a.2

/-! ## Every step -/

/-- Every command keeps the invariant (R60). -/
theorem Inv.exec {i : Instr} {s t : State} (h : Inv s) (ht : exec i s = .next t) : Inv t := by
  have hc := exec_cases ht
  cases i with
  | nop | regById _ | regByKind _ | rdReg _ => exact h.of_ports_frame (by rw [hc])
  | msgPush b body => exact hc ▸ h.msgPush b body
  | msgPop => exact hc ▸ h.msgPop
  | ctlInit => exact hc ▸ h.initControl.of_ports_frame rfl
  | ctlProc => exact h.ctlProc hc

/-- Settles O56: whichever agent steps, the step that is next leaves the list, which is no part of the invariant, and keeps the invariant. -/
theorem stepKeepsInvariant : Obligations.StepKeepsInvariant := by
  intro s t h hstep
  have hpop : ∀ rest, Inv (s.withPending rest) := fun _ => h.of_ports_frame rfl
  rcases step_cases hstep with ⟨-, rfl⟩ | ⟨b, rest, -, rfl⟩ | ⟨b, q, rest, -, hq, rfl⟩ | ⟨w, d, rest, i, -, -, hexec⟩ | ⟨w, d, rest, e, -, -, rfl⟩
  · exact h
  · exact (hpop rest).rxPush b
  · exact (hpop rest).txPop hq
  · exact (hpop rest).exec hexec
  · exact (hpop rest).of_ports_frame rfl

end Sys2Proof.Machine
end

section
/-! PROOFS. The two queues at the block's ports (R31 to R35, R47): what `RX_PUSH` and `TX_POP` do, and what a command can do to `RXQ` and to
`TXQ`, from which follows what every step keeps of them. -/

namespace Sys2Proof.Machine

/-! ## The port agents -/

theorem rxPush_of_room {P : Params} {s : State} (b : Byte) (h : s.rxq.length < P.rxqCap) : rxPush P b s = s.withRxq (s.rxq ++ [b]) := if_pos h

theorem rxPush_of_full {P : Params} {s : State} (b : Byte) (h : P.rxqCap ≤ s.rxq.length) : rxPush P b s = s.count .rxDrop :=
  if_neg (Nat.not_lt.mpr h)

theorem txPop_of_cons {s : State} {b : Byte} {q : List Byte} (h : s.txq = b :: q) : txPop s = .next ((s.withTxq q).sendByte b) := by
  simp only [txPop, h]

theorem txPop_of_nil {s : State} (h : s.txq = []) : txPop s = .refused .txPopNotEnabled := by
  simp only [txPop, h]

/-- `RX_PUSH` leaves `RXQ` as it is or puts the byte at its tail (R31, R32). -/
theorem rxPush_rxq (P : Params) (b : Byte) (s : State) : (rxPush P b s).rxq = s.rxq ∨ (rxPush P b s).rxq = s.rxq ++ [b] := by
  rcases Nat.lt_or_ge s.rxq.length P.rxqCap with hroom | hfull
  · exact .inr (by rw [rxPush_of_room b hroom, State.withRxq_rxq])
  · exact .inl (by rw [rxPush_of_full b hfull, State.count_rxq])

/-- Settles O9: a byte offered below the capacity is appended, one offered at the capacity is counted as dropped. -/
theorem rxPushAppendsOrDrops : Obligations.RxPushAppendsOrDrops := by
  intro s b rest hp
  have hstep : step s = .next (rxPush s.params b (s.withPending rest)) := step_of_pending hp
  refine ⟨fun hroom => ?room, fun hfull => ?full⟩
  case room => exact hstep.trans (congrArg Host.Outcome.next (rxPush_of_room (s := s.withPending rest) b hroom))
  case full => exact hstep.trans (congrArg Host.Outcome.next (rxPush_of_full (s := s.withPending rest) b hfull))

/-- Settles O10: `TX_POP` splits on `TXQ`, which it takes the oldest byte off or, finding none, is not enabled. -/
theorem txPopTakesOldestByte : Obligations.TxPopTakesOldestByte := by
  intro s rest hp
  have hstep : step s = txPop (s.withPending rest) := step_of_pending hp
  refine ⟨fun b q hq => ?nonempty, fun hq => ?empty⟩
  case nonempty => exact hstep.trans (txPop_of_cons hq)
  case empty => exact hstep.trans (txPop_of_nil hq)

/-! ## The commands -/

/-- No command adds to `RXQ`: only `MSG_POP` touches it, at its front (R31, R33). -/
theorem exec_rxq_suffix {i : Instr} {s t : State} (h : exec i s = .next t) : t.rxq <:+ s.rxq := by
  have hc := exec_cases h
  cases i with
  | nop | regById _ | regByKind _ | rdReg _ => rw [hc]
  | msgPush b body => rw [hc, msgPush_frame]
  | msgPop => rw [hc, msgPop_rxq]; exact List.drop_suffix _ _
  | ctlInit => rw [hc]; exact List.suffix_refl _
  | ctlProc =>
    obtain ⟨-, hrxq, -⟩ := ctlProc_frame hc
    rw [hrxq]

/-- What a command sends: nothing goes onto the link, which only `TX_POP` serves, and `TXQ` is as before or, after a `MSG_PUSH`, longer by
its whole frame (R34, R35, R93, R199). -/
theorem exec_transmit {i : Instr} {s t : State} (h : exec i s = .next t) :
    t.link = s.link ∧ (t.txq = s.txq ∨ ∃ k b body, i = .msgPush b body ∧ b.toNat = k.val ∧ body.length = lenOf s.params k ∧
      t.txq = s.txq ++ encodeFrame s.params k body) := by
  have hc := exec_cases h
  cases i with
  | nop | regById _ | regByKind _ | rdReg _ => rw [hc]; exact ⟨rfl, .inl rfl⟩
  | msgPush b body =>
    obtain rfl : t = msgPush s.params b body s := hc
    refine ⟨by rw [msgPush_frame], (msgPush_txq s.params b body s).imp_right ?_⟩
    rintro ⟨k, hk, hbody, -, -, hq⟩
    exact ⟨k, b, body, rfl, kindOf?_eq_some.mp hk, hbody, hq⟩
  | msgPop => rw [hc, msgPop_frame]; exact ⟨rfl, .inl rfl⟩
  | ctlInit => rw [hc]; exact ⟨rfl, .inl rfl⟩
  | ctlProc =>
    obtain ⟨-, -, htxq, hlink, -⟩ := ctlProc_frame hc
    exact ⟨hlink, .inl htxq⟩

/-! ## Every step -/

/-- A step leaves a suffix of `RXQ`, or it is an `RX_PUSH` that puts its byte at the tail (R31 to R33). -/
theorem step_rxq {s t : State} (h : step s = .next t) :
    t.rxq <:+ s.rxq ∨ ∃ b rest, s.pending = .rxPush b :: rest ∧ t.rxq = s.rxq ++ [b] := by
  rcases step_cases h with ⟨-, rfl⟩ | ⟨b, rest, hp, rfl⟩ | ⟨b, q, rest, -, -, rfl⟩ | ⟨w, d, rest, i, -, -, hexec⟩ | ⟨w, d, rest, e, -, -, rfl⟩
  · exact .inl (List.suffix_refl _)
  · rcases rxPush_rxq s.params b (s.withPending rest) with hq | hq
    · exact .inl (by rw [hq]; exact List.suffix_refl _)
    · exact .inr ⟨b, rest, hp, hq⟩
  · exact .inl (List.suffix_refl _)
  · have hsuffix := exec_rxq_suffix hexec
    exact .inl hsuffix
  · exact .inl (List.suffix_refl _)

/-- Settles O11: a suffix is what is left when the bytes before it are taken off, and an arriving byte takes none off. -/
theorem receiveQueueIsFifo : Obligations.ReceiveQueueIsFifo := by
  intro s t h
  rcases step_rxq h with hsuffix | ⟨b, rest, hp, hq⟩
  · refine ⟨s.rxq.length - t.rxq.length, [], Nat.sub_le _ _, ?_, .inr rfl, .inl rfl⟩
    rw [List.append_nil]
    exact List.suffix_iff_eq_drop.mp hsuffix
  · exact ⟨0, [b], Nat.zero_le _, hq, .inl rfl, .inr ⟨b, rest, hp, rfl⟩⟩

/-- Settles O12: `TX_POP` moves a byte from `TXQ` to the link, a `MSG_PUSH` may append its frame, and no other step touches either. -/
theorem linkCarriesWholeFramesInOrder : Obligations.LinkCarriesWholeFramesInOrder := by
  intro s t h
  rcases step_cases h with ⟨-, rfl⟩ | ⟨b, rest, -, rfl⟩ | ⟨b, q, rest, -, hq, rfl⟩ | ⟨w, d, rest, i, hp, hd, hexec⟩ | ⟨w, d, rest, e, -, -, rfl⟩
  · exact .inl rfl
  · exact .inl (by rw [rxPush_frame]; rfl)
  · left
    calc (s.link ++ [b]) ++ q = s.link ++ b :: q := (List.append_cons s.link b q).symm
      _ = s.link ++ s.txq := by rw [hq]
  · obtain ⟨hlink, htxq | ⟨k, b, body, rfl, hb, hbody, htxq⟩⟩ := exec_transmit hexec
    · exact .inl (by rw [hlink, htxq]; rfl)
    · refine .inr ⟨k, b, body, hb, ⟨w, d, rest, hp, hd⟩, hbody, ?_⟩
      rw [hlink, htxq, ← List.append_assoc]
      rfl
  · exact .inl rfl

/-! ## `MSG_POP` -/

/-- Only a decoded message changes the mailbox, and it answers `OK` (R88, R90). -/
theorem msgPop_mbox_of_not_ok {P : Params} {s : State} (h : lastStatus (msgPop P s) ≠ some .ok) : (msgPop P s).mbox = s.mbox := by
  rcases msgPop_mbox P s with hm | ⟨k, body, hout, -⟩
  · exact hm
  · exact absurd (by simp [msgPop, hout, lastStatus]) h

/-- Settles O26: the frame of `MSG_POP`, the bytes its outcome consumes, and the mailbox of an outcome that is no message. -/
theorem msgPopFrame : Obligations.MsgPopFrame := by
  intro s
  exact ⟨msgPop s.params s, rfl, msgPop_frame s.params s, ⟨_, msgPop_rxq s.params s⟩, msgPop_mbox_of_not_ok⟩

end Sys2Proof.Machine
end

section
/-! PROOFS. The lookups, `RD_REG` and `NOP` change the response only, and what they answer does not depend on the response before them
(R43, R150). -/

namespace Sys2Proof.Machine

theorem exec_regById_with_response (id : Byte) (s : State) (r : Option Response) :
    exec (.regById id) { s with response := r } = exec (.regById id) s := by
  have h : regById s.params id { s with response := r } = regById s.params id s := by
    unfold regById
    split <;> rfl
  exact congrArg Host.Outcome.next h

theorem exec_regByKind_with_response (b : Byte) (s : State) (r : Option Response) :
    exec (.regByKind b) { s with response := r } = exec (.regByKind b) s := by
  have h : regByKind s.params b { s with response := r } = regByKind s.params b s := by
    unfold regByKind
    split <;> rfl
  exact congrArg Host.Outcome.next h

/-- No selector names the last response (R151). -/
theorem readReg_with_response (s : State) (r : Option Response) (x : RegSel) : readReg { s with response := r } x = readReg s x := by
  cases x <;> rfl

theorem exec_rdReg_with_response (sel : Byte) (s : State) (r : Option Response) :
    exec (.rdReg sel) { s with response := r } = exec (.rdReg sel) s := by
  have h : rdReg sel { s with response := r } = rdReg sel s := by
    unfold rdReg
    split
    · rfl
    · rw [readReg_with_response]; rfl
  simp only [exec, execRdReg, h]

/-- A command that changes the response only and does not read it answers its own new state again. -/
theorem exec_again {i : Instr} {s t : State} (ht : t = { s with response := t.response })
    (hsame : ∀ r, exec i { s with response := r } = exec i s) (h : exec i s = .next t) : exec i t = .next t :=
  calc exec i t = exec i { s with response := t.response } := congrArg (exec i) ht
    _ = exec i s := hsame t.response
    _ = .next t := h

/-- Settles O52: these commands change the response only, and what they answer does not depend on the one before. -/
theorem readsAreIdempotent : Obligations.ReadsAreIdempotent := by
  intro s t i hi h
  have hc := exec_cases h
  cases i with
  | nop => exact ⟨hc, exec_again hc (fun _ => rfl) h⟩
  | regById id => exact ⟨hc, exec_again hc (exec_regById_with_response id s) h⟩
  | regByKind b => exact ⟨hc, exec_again hc (exec_regByKind_with_response b s) h⟩
  | rdReg sel => exact ⟨hc, exec_again hc (exec_rdReg_with_response sel s) h⟩
  | msgPush _ _ | msgPop | ctlInit | ctlProc => exact hi.elim

end Sys2Proof.Machine
end

section
/-! PROOFS. The decoder and the encoder are each other's inverses on the legal command words, and a command word belongs to one row of the
opcode map (R58 to R61). A fact about every word that decodes is proved about `encode i`, by cases on the command `i`. -/

namespace Sys2Proof

/-! ## Decode and encode -/

theorem commandWord_low (op s : Byte) : (commandWord op s).extractLsb' 0 8 = op := opField_commandWord op s

theorem commandWord_high (op s : Byte) : (commandWord op s).extractLsb' 8 8 = s := sField_commandWord op s

/-- Settles O2, one lemma of `EncodeDecode` per command. -/
theorem decodeOfEncodeIsIdentity : Obligations.DecodeOfEncodeIsIdentity := by
  intro i
  cases i with
  | nop => exact Laws.EncodeDecode.nop
  | regById id => exact Laws.EncodeDecode.regById id
  | regByKind s => exact Laws.EncodeDecode.regByKind s
  | msgPush s body => exact Laws.EncodeDecode.msgPush s body
  | msgPop => exact Laws.EncodeDecode.msgPop
  | ctlInit => exact Laws.EncodeDecode.ctlInit
  | ctlProc => exact Laws.EncodeDecode.ctlProc
  | rdReg sel => exact Laws.EncodeDecode.rdReg sel

theorem takesNoData_eq_ok {op : Byte} {d : List Byte} {i j : Instr} : takesNoData op d i = .ok j ↔ d = [] ∧ i = j := by
  by_cases hd : d = [] <;> simp [takesNoData, hd]

theorem takesNothing_eq_ok {op s : Byte} {d : List Byte} {i j : Instr} : takesNothing op s d i = .ok j ↔ s = 0 ∧ d = [] ∧ i = j := by
  by_cases hs : s = 0
  · rw [takesNothing, if_pos hs, takesNoData_eq_ok, and_iff_right hs]
  · rw [takesNothing, if_neg hs]
    exact iff_of_false nofun fun h => hs h.1

/-- A row without a data operand: what it accepts is the row's command, and the data is none (R61 (f)). -/
theorem encode_of_takesNoData {op s : Byte} {d : List Byte} {i j : Instr} (hi : encode i = (commandWord op s, []))
    (hl : i.wordLegal = true) (h : takesNoData op d i = .ok j) : encode j = (commandWord op s, d) ∧ j.wordLegal = true := by
  obtain ⟨rfl, rfl⟩ := takesNoData_eq_ok.mp h
  exact ⟨hi, hl⟩

/-- A row without operand and data: what it accepts is the row's command, and `S` is 0 (R61 (b), (f)). -/
theorem encode_of_takesNothing {op s : Byte} {d : List Byte} {i j : Instr} (hi : encode i = (commandWord op 0, []))
    (hl : i.wordLegal = true) (h : takesNothing op s d i = .ok j) : encode j = (commandWord op s, d) ∧ j.wordLegal = true := by
  obtain ⟨rfl, rfl, rfl⟩ := takesNothing_eq_ok.mp h
  exact ⟨hi, hl⟩

/-- What the decoder reads from the fields `op` and `s` and the data `d` encodes to exactly these, row by row of R60. -/
theorem encode_of_decode_commandWord {op s : Byte} {d : List Byte} {i : Instr} (h : decode (commandWord op s) d = .ok i) :
    encode i = (commandWord op s, d) ∧ i.wordLegal = true := by
  simp only [decode, opField_commandWord, sField_commandWord] at h
  split_ifs at h <;> subst op
  · exact encode_of_takesNothing rfl rfl h
  · exact encode_of_takesNoData rfl rfl h
  · exact encode_of_takesNoData (i := .regByKind s) rfl ‹kindInRange s = true› h
  · cases h
    exact ⟨rfl, ‹kindInRange s = true›⟩
  · exact encode_of_takesNothing rfl rfl h
  · exact encode_of_takesNothing rfl rfl h
  · exact encode_of_takesNothing rfl rfl h
  · exact encode_of_takesNoData (i := .rdReg s) rfl ‹selectorListed s = true› h

/-- Settles O3: a word is the command word of its two fields. -/
theorem encodeOfDecodeIsIdentity : Obligations.EncodeOfDecodeIsIdentity := by
  intro w d i h
  rw [← commandWord_fields w] at h ⊢
  exact encode_of_decode_commandWord h

/-- The decoder accepts exactly the encodings of the commands with a legal word. -/
theorem decode_eq_ok {w : Half} {d : List Byte} {i : Instr} : decode w d = .ok i ↔ encode i = (w, d) ∧ i.wordLegal = true := by
  refine ⟨encodeOfDecodeIsIdentity w d i, fun ⟨he, hl⟩ => ?_⟩
  have h := decodeOfEncodeIsIdentity i hl
  rwa [he] at h

/-! ## The rows of the opcode map -/

/-- Under a mask that keeps the opcode and nothing else, a word is its opcode. -/
theorem and_opcodeMask (w : Half) : w &&& 0x00FF#16 = (opField w).setWidth 16 := by
  apply BitVec.eq_of_toNat_eq
  have hop : (opField w).toNat = w.toNat % 2 ^ 8 := by simp [opField]
  rw [BitVec.toNat_and, BitVec.toNat_setWidth_of_le (by decide), hop]
  exact Nat.and_two_pow_sub_one_eq_mod _ 8

/-- Every row fixes at least the eight bits of the opcode. -/
theorem OpRow.pattern_of_matchesWord {r : OpRow} (hr : r ∈ opRows) {w : Half} (h : r.matchesWord w = true) : w &&& 0x00FF = r.pattern := by
  have hmask : ∀ r ∈ opRows, r.mask &&& 0x00FF = 0x00FF ∧ r.pattern &&& 0x00FF = r.pattern := by decide
  obtain ⟨hm, hp⟩ := hmask r hr
  have hw : w &&& r.mask = r.pattern := eq_of_beq h
  rw [← hp, ← hw, BitVec.and_assoc, hm]

theorem opRows_pattern_injective : ∀ a ∈ opRows, ∀ b ∈ opRows, a.pattern = b.pattern → a = b := by decide

/-- The encoding of a command matches the row of its mnemonic: without an operand it is the row's pattern, with one the row asks for the
opcode only. -/
theorem encode_matches_row (i : Instr) : ∃ r ∈ opRows, r.mnemonic = mnemonicOf i ∧ r.matchesWord (encode i).1 = true := by
  cases i with
  | nop | msgPop | ctlInit | ctlProc => decide
  | regById _ | regByKind _ | msgPush _ _ | rdReg _ =>
    simp [opRows, mnemonicOf, OpRow.matchesWord, encode, and_opcodeMask, OP_REG_BY_ID, OP_REG_BY_KIND, OP_MSG_PUSH, OP_RD_REG]

/-- Settles O4: the opcode tells the rows apart, and a word that decodes is the encoding of its command. -/
theorem wordMatchesAtMostOneRow : Obligations.WordMatchesAtMostOneRow := by
  refine ⟨fun w a ha b hb hwa hwb => ?unique, fun w d i h => ?ofItsCommand⟩
  case unique =>
    have hab : a.pattern = b.pattern := (OpRow.pattern_of_matchesWord ha hwa).symm.trans (OpRow.pattern_of_matchesWord hb hwb)
    exact opRows_pattern_injective a ha b hb hab
  case ofItsCommand =>
    obtain ⟨he, -⟩ := decode_eq_ok.mp h
    simpa only [he] using encode_matches_row i

/-- Settles O1: eight literal words, on which the decoder is run. -/
theorem sampleWordsDecode : Obligations.SampleWordsDecode := by
  unfold Obligations.SampleWordsDecode
  decide

end Sys2Proof
end

section
/-! PROOFS. The illegal command words (R61, R154). The six conditions of R61 hold of the encoding of a command exactly when the command is not
legal, so a word is looked at through the command it encodes; the decoder rejects an illegal word itself but for the size of a `MSG_PUSH` body,
which the command checks. -/

namespace Sys2Proof.Machine

/-- R61 (e) for a kind index: the data operand has not `len_k` bytes. -/
theorem bodyFits_eq_false {P : Params} {s : Byte} {body : List Byte} (h : s.toNat ≤ 20) :
    bodyFits P s body = false ↔ ∃ k : Kind, k.val = s.toNat ∧ body.length ≠ (P.registry k).len.toNat := by
  rw [bodyFits, dif_pos (by omega), beq_eq_false_iff_ne]
  constructor
  · exact fun hne => ⟨_, rfl, hne⟩
  · rintro ⟨⟨n, hn⟩, rfl, hne⟩
    exact hne

/-- R61 (d): the selectors that are not listed. -/
theorem selectorListed_eq_false {s : Byte} :
    selectorListed s = false ↔ (0x0D ≤ s.toNat ∧ s.toNat ≤ 0x0F) ∨ (0x36 ≤ s.toNat ∧ s.toNat ≤ 0x3F) ∨ 0x6C ≤ s.toNat := by
  simp only [selectorListed, Bool.or_eq_false_iff, Bool.and_eq_false_iff, decide_eq_false_iff_not]
  omega

/-- The six conditions of R61 hold of the encoding of a command exactly when the command is not legal. -/
theorem illegalPerR61_encode {P : Params} {i : Instr} : illegalPerR61 P (encode i).1 (encode i).2 ↔ i.wellFormed P = false := by
  cases i with
  | nop | msgPop | ctlInit | ctlProc =>
    simp [illegalPerR61, encode, Instr.wellFormed, commandWord_low, commandWord_high, OP_NOP, OP_MSG_POP, OP_CTL_INIT, OP_CTL_PROC]
  | regById id => simp [illegalPerR61, encode, Instr.wellFormed, commandWord_low, OP_REG_BY_ID]
  | regByKind s => simp [illegalPerR61, encode, Instr.wellFormed, commandWord_low, commandWord_high, OP_REG_BY_KIND, kindInRange]
  | msgPush s body =>
    by_cases hk : s.toNat ≤ 20
    · simp [illegalPerR61, encode, Instr.wellFormed, commandWord_low, commandWord_high, OP_MSG_PUSH, kindInRange, bodyFits_eq_false hk, hk]
    · simp [illegalPerR61, encode, Instr.wellFormed, commandWord_low, commandWord_high, OP_MSG_PUSH, kindInRange, hk, lt_of_not_ge hk]
  | rdReg s => simp [illegalPerR61, encode, Instr.wellFormed, commandWord_low, commandWord_high, OP_RD_REG, selectorListed_eq_false]

/-- A word that meets none of the conditions (a), (b) and (f) of R61 is the word of a command. -/
theorem exists_encode_of_not_illegal {P : Params} {w : Half} {d : List Byte} (h : ¬ illegalPerR61 P w d) : ∃ i, encode i = (w, d) := by
  obtain ⟨op, s, rfl⟩ : ∃ op s, commandWord op s = w := ⟨_, _, commandWord_fields w⟩
  simp only [illegalPerR61, commandWord_low, commandWord_high, not_or, not_and_or, not_not] at h
  obtain ⟨hrow, hs0, -, -, -, hd0⟩ := h
  have hzero (hm : op ∈ [0x00#8, 0x11#8, 0x20#8, 0x21#8]) : s = 0 := BitVec.eq_of_toNat_eq (hs0.resolve_left (not_not_intro hm))
  have hdata (hne : op ≠ 0x10#8) : d = [] := hd0.resolve_left hne
  simp only [List.mem_cons, List.not_mem_nil, or_false] at hrow
  rcases hrow with rfl | rfl | rfl | rfl | rfl | rfl | rfl | rfl
  · exact ⟨.nop, by rw [hzero (by decide), hdata (by decide)]; rfl⟩
  · exact ⟨.regById s, by rw [hdata (by decide)]; rfl⟩
  · exact ⟨.regByKind s, by rw [hdata (by decide)]; rfl⟩
  · exact ⟨.msgPush s d, rfl⟩
  · exact ⟨.msgPop, by rw [hzero (by decide), hdata (by decide)]; rfl⟩
  · exact ⟨.ctlInit, by rw [hzero (by decide), hdata (by decide)]; rfl⟩
  · exact ⟨.ctlProc, by rw [hzero (by decide), hdata (by decide)]; rfl⟩
  · exact ⟨.rdReg s, by rw [hdata (by decide)]; rfl⟩

/-- A word that decodes and is illegal is a `MSG_PUSH` whose body has not `len_S` bytes (R61 (e)): the decoder stops at every other
condition. -/
theorem exists_msgPush_of_not_wellFormed {P : Params} {i : Instr} (hl : i.wordLegal = true) (h : i.wellFormed P = false) :
    ∃ b body k, i = .msgPush b body ∧ kindOf? b = some k ∧ body.length ≠ lenOf P k := by
  cases i with
  | msgPush b body =>
    have hbody : bodyFits P b body = false := by simpa [Instr.wellFormed, show kindInRange b = true from hl] using h
    obtain ⟨j, hj, hne⟩ := (bodyFits_eq_false (of_decide_eq_true hl)).mp hbody
    exact ⟨b, body, j, rfl, kindOf?_eq_some.mpr hj.symm, hne⟩
  | nop | regById _ | regByKind _ | msgPop | ctlInit | ctlProc | rdReg _ => exact nomatch hl.symm.trans h

/-- R82: a body that has not `len_S` bytes is answered `ILLEGAL_COMMAND` with `written` 0. -/
theorem msgPush_of_length_ne {P : Params} {b : Byte} {k : Kind} {body : List Byte} (hk : kindOf? b = some k) (hne : body.length ≠ lenOf P k)
    (s : State) : msgPush P b body s = s.respond ⟨.illegalCommand, .written 0⟩ := by
  simp only [msgPush, hk, if_pos hne]

/-- An illegal word is answered `ILLEGAL_COMMAND`, by the decoder or by `MSG_PUSH` (R61, R154). -/
theorem issue_of_illegal {s : State} {w : Half} {d : List Byte} (h : illegalPerR61 s.params w d) : issue w d s = .next (illegalWord w s) := by
  cases hd : decode w d with
  | error e => exact issue_of_decode_error hd s
  | ok i =>
    obtain ⟨he, hl⟩ := decode_eq_ok.mp hd
    obtain ⟨b, body, k, rfl, hk, hne⟩ := exists_msgPush_of_not_wellFormed hl (illegalPerR61_encode.mp (by rwa [he]))
    obtain ⟨rfl, rfl⟩ := Prod.mk.inj he
    calc issue _ _ s = .next (msgPush s.params b body s) := issue_of_decode_ok hd s
      _ = .next (illegalWord (commandWord OP_MSG_PUSH b) s) := by
        rw [msgPush_of_length_ne hk hne, illegalWord, opField_commandWord]; rfl

/-- Settles O5: a word that meets none of the six conditions encodes a command, and it is illegal exactly when that command is. -/
theorem illegalWordOnlyResponds : Obligations.IllegalWordOnlyResponds := by
  refine fun s w d => ⟨fun h => ?illegal, fun h => ?legal⟩
  case illegal => rw [issue_of_illegal h, illegalWord_eq]
  case legal =>
    obtain ⟨i, he⟩ := exists_encode_of_not_illegal h
    have hwf : i.wellFormed s.params = true := by
      rw [← Bool.not_eq_false, ← illegalPerR61_encode, he]
      exact h
    exact ⟨i, decode_eq_ok.mpr ⟨he, Instr.wordLegal_of_wellFormed hwf⟩, hwf⟩

end Sys2Proof.Machine
end

section
/-! PROOFS. The head, the frame and the admitted values (R52 to R55, R67, R77, R81). -/

namespace Sys2Proof.Machine

/-- Settles O13: the token is the one field of two bytes, and its wire form is inverted by `ofLe16`. -/
theorem headPackAndUnpackAreInverse : Obligations.HeadPackAndUnpackAreInverse := by
  refine ⟨fun h => ⟨headPack_eq h, ?unpackPack⟩, fun a b c d => ?ofBytes⟩
  case unpackPack => simp [headPack_eq, headUnpack]
  case ofBytes =>
    have hu : headUnpack [a, b, c, d] = ⟨a, b, d ++ c⟩ := by simp [headUnpack, ofLe16_append]
    refine ⟨hu, ?_⟩
    have hc : (d ++ c : Half).extractLsb' 0 8 = c := commandWord_low c d
    have hd : (d ++ c : Half).extractLsb' 8 8 = d := commandWord_high c d
    rw [hu, headPack_eq]
    simp only [hc, hd]

/-- Settles O14: `encodeFrame` with the head of the registry row written out. -/
theorem frameLayout : Obligations.FrameLayout := by
  intro P k body hb r head c
  have hhead : headPack (headOf P k) = head := headPack_eq (headOf P k)
  refine ⟨?layout, ?size⟩
  case layout => rw [encodeFrame, hhead]; rfl
  case size => rw [encodeFrame_length P k body hb, frameSize_eq]

/-- R67: the type index 5 is the type bit `1 << 5`. -/
theorem typeBit_of_idx {P : Params} {k : Kind} (h : P.msgTypeIdx k = 5) : typeBit P k = 0x20#32 := by
  rw [typeBit, h]; rfl

/-- Settles O18: the configuration of every block is admitted, and admission fixes these values. -/
theorem knownTypeBitsAndScales : Obligations.KnownTypeBitsAndScales := by
  intro s
  obtain ⟨-, -, -, -, hscales, -, -, -, hidx⟩ := (Params.admitted_iff _).mp s.params_admitted
  simp only [Params.knownScales, Params.typeIdxAdmitted, Bool.and_eq_true, beq_iff_eq] at hscales hidx
  obtain ⟨hvrc, hvhc⟩ := hidx
  exact ⟨typeBit_of_idx hvrc, typeBit_of_idx hvhc, hscales⟩

end Sys2Proof.Machine
end

section
/-! PROOFS. The assembler on the spec's own lines (R65, R66). -/

namespace Sys2Proof.Machine

/-- Settles O7: eight literal lines, which the assembler reads. -/
theorem assemblerExamples : Obligations.AssemblerExamples := by
  unfold Obligations.AssemblerExamples
  decide

end Sys2Proof.Machine
end

section
/-! PROOFS. The registry lookups (R72 to R75) and the admission of a configuration (R71, R111, R36, R162). -/

namespace Sys2Proof.Machine

/-! ## The lookups -/

theorem exec_regById_of_some {id : Byte} {k : Kind} {s : State} (h : lookupById s.params id = some k) :
    exec (.regById id) s = .next (s.respond (rowResponse s.params k)) := by
  simp only [exec, execRegById, regById, h]

theorem exec_regById_of_none {id : Byte} {s : State} (h : lookupById s.params id = none) :
    exec (.regById id) s = .next (s.respond ⟨.notFound, .none⟩) := by
  simp only [exec, execRegById, regById, h]

theorem exec_regByKind_of_some {b : Byte} {k : Kind} (h : kindOf? b = some k) (s : State) :
    exec (.regByKind b) s = .next (s.respond (rowResponse s.params k)) := by
  simp only [exec, execRegByKind, regByKind, h]

theorem exec_regByKind_of_none {b : Byte} (h : kindOf? b = none) (s : State) :
    exec (.regByKind b) s = .next (s.respond ⟨.illegalCommand, .none⟩) := by
  simp only [exec, execRegByKind, regByKind, h]

/-- Settles O15: the ids of an admitted registry are distinct, so the id of a row finds that row and no other. -/
theorem regByIdAnswersItsRow : Obligations.RegByIdAnswersItsRow := by
  intro s
  refine ⟨fun k => ?found, fun id hid => ?notFound⟩
  case found => exact exec_regById_of_some (lookupById_id s.idsDistinct k)
  case notFound => exact exec_regById_of_none (lookupById_none.mpr hid)

/-- Settles O16: `kindOf?` splits the operands at 20. -/
theorem regByKindAnswersItsRow : Obligations.RegByKindAnswersItsRow := by
  intro s b
  refine ⟨fun k hk => ?row, fun hb => ?illegal⟩
  case row => exact exec_regByKind_of_some (kindOf?_eq_some.mpr hk) s
  case illegal => exact exec_regByKind_of_none (kindOf?_eq_none.mpr hb) s

/-! ## What the admission conditions say -/

theorem Params.idsDistinct_iff {P : Params} :
    P.idsDistinct = true ↔ ∀ i j : Kind, (P.registry i).id = (P.registry j).id → i = j :=
  decide_eq_true_iff

theorem Params.tokensDistinct_iff {P : Params} :
    P.tokensDistinct = true ↔ ∀ i j : Kind, (P.registry i).token = (P.registry j).token → i = j :=
  decide_eq_true_iff

theorem Params.layoutsFit_iff {P : Params} :
    P.layoutsFit = true ↔ ∀ k : Kind, ((P.bodyLayout k).map BodyField.bytes).sum = (P.registry k).len.toNat :=
  decide_eq_true_iff

/-- R71 (e): a row without a scale meets the condition, one with a scale when that is finite and non-zero. -/
theorem scaleAdmitted_iff {N : NumDomain} {scale : Option NUM} :
    scaleAdmitted N scale = true ↔
      ∀ x, scale = some x → N.isFinite x = true ∧ (N.gt x NUM.zero = true ∨ N.gt NUM.zero x = true) := by
  cases scale <;> simp [scaleAdmitted]

theorem Params.scalesAdmitted_iff {P : Params} :
    P.scalesAdmitted = true ↔ ∀ (k : Kind) (x : NUM), (P.registry k).scale = some x →
      P.num.isFinite x = true ∧ (P.num.gt x NUM.zero = true ∨ P.num.gt NUM.zero x = true) := by
  simp only [Params.scalesAdmitted, decide_eq_true_iff, scaleAdmitted_iff]

theorem Params.knownScales_iff {P : Params} :
    P.knownScales = true ↔ (P.registry Kind.ODO).scale = some (P.num.decimal 1 3) ∧
      (P.registry Kind.ZGYRO).scale = some (P.num.decimal 1 (-2)) := by
  simp only [Params.knownScales, Bool.and_eq_true, beq_iff_eq]

theorem limitAdmitted_iff {N : NumDomain} {limit : NUM} :
    limitAdmitted N limit = true ↔ N.isFinite limit = true ∧ N.gt NUM.zero limit = false := by
  simp only [limitAdmitted, Bool.and_eq_true, Bool.not_eq_true']

theorem Params.cfgAdmitted_iff {P : Params} :
    P.cfgAdmitted = true ↔ ∀ i : PidIx,
      P.num.isFinite (P.cfg i).kp = true ∧ P.num.isFinite (P.cfg i).ki = true ∧ P.num.isFinite (P.cfg i).kd = true ∧
        P.num.isFinite (P.cfg i).ilim = true ∧ P.num.gt NUM.zero (P.cfg i).ilim = false ∧
        P.num.isFinite (P.cfg i).olim = true ∧ P.num.gt NUM.zero (P.cfg i).olim = false := by
  simp only [Params.cfgAdmitted, decide_eq_true_iff, pidCfgAdmitted, Bool.and_eq_true, limitAdmitted_iff, and_assoc]

theorem Params.queuesAdmitted_iff {P : Params} : P.queuesAdmitted = true ↔ 256 ≤ P.rxqCap ∧ 256 ≤ P.txqCap := by
  rw [Params.queuesAdmitted, Bool.and_eq_true, decide_eq_true_iff, decide_eq_true_iff, MSG_LEN_MAX]

theorem Params.periodAdmitted_iff {P : Params} : P.periodAdmitted = true ↔ 0 < P.ctlPeriodMs :=
  decide_eq_true_iff

theorem Params.typeIdxAdmitted_iff {P : Params} :
    P.typeIdxAdmitted = true ↔ P.msgTypeIdx Kind.VRC = 5 ∧ P.msgTypeIdx Kind.VHC = 5 := by
  simp only [Params.typeIdxAdmitted, Bool.and_eq_true, beq_iff_eq]

/-! ## Where `MF_CONFIG` is raised -/

theorem configure_of_admitted {P : Params} (h : P.admitted = true) : configure P = .ok ⟨P, h⟩ := dif_pos h

theorem configure_of_not_admitted {P : Params} (h : ¬ P.admitted = true) : configure P = .error .mfConfig := dif_neg h

/-- A configuration carries the proof that its parameters are admitted. -/
theorem admitted_iff_configure {P : Params} : P.admitted = true ↔ ∃ C : Config, configure P = .ok C ∧ C.params = P := by
  constructor
  · exact fun h => ⟨⟨P, h⟩, configure_of_admitted h, rfl⟩
  · rintro ⟨C, -, rfl⟩
    exact C.admitted

/-- The faults of a step are those of a command, which are the three others of R162. -/
theorem step_ne_mfConfig (s : State) : step s ≠ .fault .mfConfig := by
  intro h
  obtain ⟨w, d, rest, i, -, -, hexec⟩ := step_fault h
  have hfault := exec_fault hexec
  cases i with
  | ctlProc | rdReg _ => simp at hfault
  | nop | regById _ | regByKind _ | msgPush _ _ | msgPop | ctlInit => exact hfault

/-- Settles O17: `configure` splits on the admission, whose nine conditions are written out one by one. -/
theorem configurationIsCheckedOnce : Obligations.ConfigurationIsCheckedOnce := by
  intro P
  refine ⟨?admission, fun hnone => ?refused, step_ne_mfConfig⟩
  case admission =>
    rw [← admitted_iff_configure, Params.admitted_iff, Params.idsDistinct_iff, Params.tokensDistinct_iff, Params.layoutsFit_iff,
      Params.scalesAdmitted_iff, Params.knownScales_iff, Params.cfgAdmitted_iff, Params.queuesAdmitted_iff, Params.periodAdmitted_iff,
      Params.typeIdxAdmitted_iff]
    simp only [and_assoc]
  case refused => exact configure_of_not_admitted fun h => hnone ⟨⟨P, h⟩, configure_of_admitted h⟩

end Sys2Proof.Machine
end

section
/-! PROOFS. The Frame Codec (R82 to R97). `MSG_PUSH` has one equation per outcome. `MSG_POP` has one equation per outcome of the decoder, and the
decoder's outcome is read off the bytes at the front of `RXQ`: a head that is no row's, the head of a row, a whole frame. -/

namespace Sys2Proof.Machine

/-! ## `MSG_PUSH` (R82) -/

theorem msgPush_of_kind_none {b : Byte} (h : kindOf? b = none) (P : Params) (body : List Byte) (s : State) :
    msgPush P b body s = s.respond ⟨.illegalCommand, .written 0⟩ := by
  simp only [msgPush, h]

section
variable {P : Params} {b : Byte} {k : Kind} {body : List Byte} {s : State}

theorem msgPush_of_overflow (hk : kindOf? b = some k) (hbody : body.length = lenOf P k) (hmax : MSG_LEN_MAX < frameSize P k) :
    msgPush P b body s = (s.count .lenOverflow).respond ⟨.lengthOverflow, .written 0⟩ := by
  simp only [msgPush, hk, if_neg (not_not_intro hbody), if_pos hmax]

theorem msgPush_of_noSpace (hk : kindOf? b = some k) (hbody : body.length = lenOf P k) (hmax : frameSize P k ≤ MSG_LEN_MAX)
    (hfree : txFree P s < frameSize P k) : msgPush P b body s = (s.count .noSpace).respond ⟨.noSpace, .written 0⟩ := by
  simp only [msgPush, hk, if_neg (not_not_intro hbody), if_neg (Nat.not_lt.mpr hmax), if_pos hfree]

theorem msgPush_of_room (hk : kindOf? b = some k) (hbody : body.length = lenOf P k) (hmax : frameSize P k ≤ MSG_LEN_MAX)
    (hfree : frameSize P k ≤ txFree P s) : msgPush P b body s =
      ((txAppend s (encodeFrame P k body)).count .pushOk).respond ⟨.ok, .written (frameSize P k)⟩ := by
  simp only [msgPush, hk, if_neg (not_not_intro hbody), if_neg (Nat.not_lt.mpr hmax), if_neg (Nat.not_lt.mpr hfree)]

/-- Of the outcomes of `MSG_PUSH k` only `OK` has the status `OK`: the body has `len_k` bytes and its whole frame is appended. -/
theorem msgPush_of_ok (hk : kindOf? b = some k) (hok : lastStatus (msgPush P b body s) = some .ok) :
    body.length = lenOf P k ∧ (msgPush P b body s).txq = s.txq ++ encodeFrame P k body := by
  by_cases hbody : body.length = lenOf P k
  case neg => simp [msgPush_of_length_ne hk hbody, lastStatus] at hok
  rcases Nat.lt_or_ge MSG_LEN_MAX (frameSize P k) with hmax | hmax
  · simp [msgPush_of_overflow hk hbody hmax, lastStatus] at hok
  rcases Nat.lt_or_ge (txFree P s) (frameSize P k) with hfree | hfree
  · simp [msgPush_of_noSpace hk hbody hmax hfree, lastStatus] at hok
  · exact ⟨hbody, by rw [msgPush_of_room hk hbody hmax hfree]; rfl⟩

end

/-- Settles O19: `kindOf?` splits the operands at 20, and each clause for a kind is one outcome's equation. -/
theorem msgPushOutcomes : Obligations.MsgPushOutcomes := by
  intro s b body
  refine ⟨fun hb => congrArg Host.Outcome.next (msgPush_of_kind_none (kindOf?_eq_none.mpr hb) _ _ _), ?_⟩
  intro k hb len
  have hk : kindOf? b = some k := kindOf?_eq_some.mpr hb
  have hT : 6 + len = frameSize s.params k := (frameSize_eq s.params k).symm
  rw [hT]
  refine ⟨fun hne => ?size, fun hbody hmax => ?overflow, fun hbody hmax hfree => ?noSpace, fun hbody hmax hfree => ?room⟩
  case size => exact congrArg Host.Outcome.next (msgPush_of_length_ne hk hne s)
  case overflow => exact congrArg Host.Outcome.next (msgPush_of_overflow hk hbody hmax)
  case noSpace => exact congrArg Host.Outcome.next (msgPush_of_noSpace hk hbody hmax hfree)
  case room => exact congrArg Host.Outcome.next (msgPush_of_room hk hbody hmax hfree)

/-! ## `MSG_POP`, by the outcome of the decoder (R90) -/

/-- The status that answers an outcome (R83 to R88). -/
def popStatus : PopOutcome → Status
  | .incomplete => .incomplete
  | .unknownId => .unknownId
  | .schemaMismatch => .schemaMismatch
  | .checksumMismatch _ => .checksumMismatch
  | .message _ _ => .ok

theorem lastStatus_msgPop (P : Params) (s : State) : lastStatus (msgPop P s) = some (popStatus (popOutcome P s.rxq)) := by
  cases ho : popOutcome P s.rxq <;> simp [msgPop, ho, lastStatus, popStatus]

/-- Only an incomplete outcome is answered `INCOMPLETE` (R83, R86). -/
theorem lastStatus_msgPop_eq_incomplete {P : Params} {s : State} :
    lastStatus (msgPop P s) = some .incomplete ↔ popOutcome P s.rxq = .incomplete := by
  rw [lastStatus_msgPop]
  cases popOutcome P s.rxq <;> simp [popStatus]

section
variable {s : State} {k : Kind} {body : List Byte}

theorem msgPop_of_incomplete {P : Params} (h : popOutcome P s.rxq = .incomplete) :
    msgPop P s = s.respond ⟨.incomplete, .consumed 0⟩ := by
  simp only [msgPop, rxPeek_all, h]

theorem exec_msgPop_of_incomplete (h : popOutcome s.params s.rxq = .incomplete) :
    exec .msgPop s = .next { s with response := some ⟨.incomplete, .consumed 0⟩ } :=
  congrArg Host.Outcome.next (msgPop_of_incomplete h)

theorem exec_msgPop_of_unknownId (h : popOutcome s.params s.rxq = .unknownId) :
    exec .msgPop s = .next { s with
      rxq := s.rxq.drop 1, cnt := { s.cnt with unknownId := s.cnt.unknownId + 1 }, response := some ⟨.unknownId, .consumed 1⟩ } := by
  simp only [exec, execMsgPop, msgPop, rxPeek_all, h]
  rfl

theorem exec_msgPop_of_schemaMismatch (h : popOutcome s.params s.rxq = .schemaMismatch) :
    exec .msgPop s = .next { s with
      rxq := s.rxq.drop 1, cnt := { s.cnt with schema := s.cnt.schema + 1 }, response := some ⟨.schemaMismatch, .consumed 1⟩ } := by
  simp only [exec, execMsgPop, msgPop, rxPeek_all, h]
  rfl

theorem exec_msgPop_of_checksumMismatch (h : popOutcome s.params s.rxq = .checksumMismatch k) :
    exec .msgPop s = .next { s with
      rxq := s.rxq.drop (frameSize s.params k), cnt := { s.cnt with checksum := s.cnt.checksum + 1 },
      response := some ⟨.checksumMismatch, .consumed (frameSize s.params k)⟩ } := by
  simp only [exec, execMsgPop, msgPop, rxPeek_all, h]
  rfl

theorem exec_msgPop_of_message (h : popOutcome s.params s.rxq = .message k body) :
    let r := s.params.registry k
    exec .msgPop s = .next { s with
      rxq := s.rxq.drop (frameSize s.params k), mbox := s.mbox.set k.val ⟨true, body⟩,
      cnt := { s.cnt with popOk := s.cnt.popOk + 1 },
      response := some ⟨.ok, .message (frameSize s.params k) k r.id r.len r.token body⟩ } := by
  simp only [exec, execMsgPop, msgPop, rxPeek_all, h]
  rfl

end

/-! ## The outcome of the decoder, by the bytes at the front of `RXQ` (R83 to R88) -/

section
variable {P : Params} {k : Kind} {a len t0 t1 : Byte} {q : List Byte}

theorem popOutcome_of_short (h : q.length < 6) : popOutcome P q = .incomplete := if_pos h

theorem popOutcome_of_lookup_none (h6 : 6 ≤ (a :: q).length) (h : lookupById P a = none) : popOutcome P (a :: q) = .unknownId := by
  have hid : (headUnpack ((a :: q).take HEAD_LEN)).id = a := rfl
  simp only [popOutcome, MSG_LEN_MIN, if_neg (Nat.not_lt.mpr h6), hid, h]

/-- R85: the id is that of row `k`, the length or the token is not. -/
theorem popOutcome_of_lookup_some (h6 : 6 ≤ (a :: len :: t0 :: t1 :: q).length) (h : lookupById P a = some k)
    (hne : len ≠ (P.registry k).len ∨ (t1 ++ t0 : Half) ≠ (P.registry k).token) :
    popOutcome P (a :: len :: t0 :: t1 :: q) = .schemaMismatch := by
  have hhead : headUnpack ((a :: len :: t0 :: t1 :: q).take HEAD_LEN) = ⟨a, len, t1 ++ t0⟩ :=
    (headPackAndUnpackAreInverse.2 a len t0 t1).1
  simp only [popOutcome, MSG_LEN_MIN, if_neg (Nat.not_lt.mpr h6), hhead, h, if_pos hne]

/-- R84, R85: four bytes that are the head of no row. -/
theorem popOutcome_of_no_row (h6 : 6 ≤ (a :: len :: t0 :: t1 :: q).length)
    (hno : ∀ j : Kind, ¬ ((P.registry j).id = a ∧ (P.registry j).len = len ∧ (P.registry j).token = (t1 ++ t0 : Half))) :
    popOutcome P (a :: len :: t0 :: t1 :: q) = .unknownId ∨ popOutcome P (a :: len :: t0 :: t1 :: q) = .schemaMismatch := by
  cases hl : lookupById P a with
  | none => exact .inl (popOutcome_of_lookup_none h6 hl)
  | some j =>
    refine .inr (popOutcome_of_lookup_some h6 hl ?_)
    rw [← not_and_or]
    exact fun ⟨hlen, htoken⟩ => hno j ⟨lookupById_some hl, hlen.symm, htoken.symm⟩

end

/-- The bytes of a whole frame are `6 + len_k`, so taking them off leaves what follows (R54). -/
theorem drop_frameSize {P : Params} {k : Kind} {body : List Byte} (hbody : body.length = lenOf P k) (a b c d c0 c1 : Byte) (q : List Byte) :
    ([a, b, c, d] ++ body ++ [c0, c1] ++ q).drop (frameSize P k) = q :=
  List.drop_left' (by simp [frameSize, HEAD_LEN, CRC_LEN, hbody]; omega)

/-! ## The outcomes of `MSG_POP` (R83 to R88) -/

/-- Settles O20: the size is looked at first. -/
theorem msgPopUnderrun : Obligations.MsgPopUnderrun :=
  fun _ h => exec_msgPop_of_incomplete (popOutcome_of_short h)

/-- Settles O21: an id of no row is not found. -/
theorem msgPopUnknownId : Obligations.MsgPopUnknownId := by
  intro s id q hq h6 hid
  rw [hq] at h6
  rw [exec_msgPop_of_unknownId (by rw [hq]; exact popOutcome_of_lookup_none h6 (lookupById_none.mpr hid)), hq]
  rfl

/-- Settles O22: the ids are distinct, so the id of row `k` finds row `k`, whose length or token is another. -/
theorem msgPopSchemaMismatch : Obligations.MsgPopSchemaMismatch := by
  intro s k len t0 t1 q r hq h6 hne
  rw [hq] at h6
  rw [exec_msgPop_of_schemaMismatch (by rw [hq]; exact popOutcome_of_lookup_some h6 (lookupById_id s.idsDistinct k) hne), hq]
  rfl

/-- Settles O23: with fewer than 6 bytes the head is not looked at; with more it is row `k`'s and the size is checked against it. -/
theorem msgPopIncompleteFrame : Obligations.MsgPopIncompleteFrame := by
  intro s k q r hq hT
  rcases Nat.lt_or_ge s.rxq.length 6 with h6 | h6
  · exact msgPopUnderrun s h6
  · rw [← frameSize_eq] at hT
    rw [hq] at h6 hT
    exact exec_msgPop_of_incomplete (by rw [hq]; exact (popOutcome_head s.idsDistinct k q h6).trans (if_pos hT))

/-- Settles O24: the outcome of a whole frame, with the two CRCs different. -/
theorem msgPopChecksumMismatch : Obligations.MsgPopChecksumMismatch := by
  intro s k body c0 c1 q r covered hbody hq hcrc
  have hout : popOutcome s.params s.rxq = .checksumMismatch k := by
    rw [hq]; exact (popOutcome_frame s k body c0 c1 q hbody).trans (if_pos hcrc)
  rw [exec_msgPop_of_checksumMismatch hout, hq, drop_frameSize hbody, frameSize_eq]

/-- Settles O25: the outcome of a whole frame, with the two CRCs equal. -/
theorem msgPopSuccess : Obligations.MsgPopSuccess := by
  intro s k body c0 c1 q r covered hbody hq hcrc
  have hout : popOutcome s.params s.rxq = .message k body := by
    rw [hq]; exact (popOutcome_frame s k body c0 c1 q hbody).trans (if_neg (not_not_intro hcrc))
  rw [exec_msgPop_of_message hout, hq, drop_frameSize hbody, frameSize_eq]

/-! ## Frames in `RXQ` (R94 to R96) -/

/-- A 16-bit value is its high byte above its low byte (R39). -/
theorem bytes_append (v : Half) : (v.extractLsb' 8 8 ++ v.extractLsb' 0 8 : Half) = v := commandWord_fields v

/-- A frame that `Encode` made is decoded to its kind and body, and leaves what follows it (R88, R94). -/
theorem exec_msgPop_encodeFrame {s : State} {k : Kind} {body q : List Byte} (hbody : body.length = lenOf s.params k)
    (hq : s.rxq = encodeFrame s.params k body ++ q) :
    let r := s.params.registry k
    exec .msgPop s = .next { s with
      rxq := q, mbox := s.mbox.set k.val ⟨true, body⟩, cnt := { s.cnt with popOk := s.cnt.popOk + 1 },
      response := some ⟨.ok, .message (6 + r.len.toNat) k r.id r.len r.token body⟩ } := by
  rw [(frameLayout s.params k body hbody).1] at hq
  exact msgPopSuccess s k body _ _ q hbody hq (bytes_append _).symm

/-- Settles O27: a `MSG_PUSH` that answers `OK` appended the frame of `Encode`, which a block of the same configuration decodes. -/
theorem pushThenPopRoundTrip : Obligations.PushThenPopRoundTrip := by
  intro s t u b k body f q r hb hpush hok htxq hconfig hrxq
  obtain rfl : t = msgPush s.params b body s := exec_cases hpush
  obtain ⟨hbody, happended⟩ := msgPush_of_ok (kindOf?_eq_some.mpr hb) hok
  obtain rfl : f = encodeFrame s.params k body := List.append_cancel_left (htxq.symm.trans happended)
  have hparams : u.params = s.params := State.params_congr hconfig
  rw [← hparams] at hbody hrxq
  simpa only [hparams] using exec_msgPop_encodeFrame hbody hrxq

/-- The frame's bytes one by one: `id`, `length`, the token's two bytes, the body and the two CRC bytes (R54). -/
theorem encodeFrame_cons (P : Params) (k : Kind) (body : List Byte) :
    let r := P.registry k
    encodeFrame P k body = r.id :: r.len :: r.token.extractLsb' 0 8 :: r.token.extractLsb' 8 8 ::
      (body ++ le16 (P.crc16 (headPack (headOf P k) ++ body))) := by
  simp [encodeFrame, headPack_eq, headOf]

/-- Settles O29: the stray byte and the frame's first three bytes are the head of no row, so the decoder's outcome is one of the two that consume
one byte, and after it the frame is at the front. -/
theorem resyncAfterStrayByte : Obligations.ResyncAfterStrayByte := by
  intro s x k body r hbody hq hno
  have hout : popOutcome s.params s.rxq = .unknownId ∨ popOutcome s.params s.rxq = .schemaMismatch := by
    rw [hq, encodeFrame_cons]
    exact popOutcome_of_no_row (by simp) hno
  have hstatus : lastStatus (msgPop s.params s) = some .unknownId ∨ lastStatus (msgPop s.params s) = some .schemaMismatch := by
    rw [lastStatus_msgPop]
    exact hout.imp (congrArg (some ∘ popStatus)) (congrArg (some ∘ popStatus))
  have hframe : (msgPop s.params s).rxq = encodeFrame s.params k body := by
    have hone : consumedBy s.params (popOutcome s.params s.rxq) = 1 := by rcases hout with h | h <;> rw [h] <;> rfl
    rw [msgPop_rxq, hone, hq]
    rfl
  have hmbox : (msgPop s.params s).mbox = s.mbox :=
    msgPop_mbox_of_not_ok fun hok => by rcases hstatus with h | h <;> cases hok.symm.trans h
  have hparams : (msgPop s.params s).params = s.params := State.params_congr (by rw [msgPop_frame])
  have hsecond := exec_msgPop_encodeFrame (s := msgPop s.params s) (k := k) (body := body) (q := []) (by rw [hparams]; exact hbody)
    (by rw [hparams, hframe, List.append_nil])
  exact ⟨_, _, rfl, hstatus, hframe, hmbox, hsecond, rfl, by rw [hmbox], by rw [hparams]⟩

/-! ## One byte of a frame changed (R95) -/

/-- Changing an element of the first part of a list leaves the second part. -/
theorem modify_append_of_lt {α : Type} {g : α → α} {j : Nat} (l r : List α) (h : j < l.length) : (l ++ r).modify j g = l.modify j g ++ r := by
  induction l generalizing j with
  | nil => exact absurd h (Nat.not_lt_zero _)
  | cons a l ih =>
    cases j with
    | zero => rfl
    | succ j => simp [ih (Nat.lt_of_succ_lt_succ h)]

section
variable {g : Byte → Byte} {s : State} {k : Kind} {body : List Byte}

/-- The tokens are distinct, so the head of row `k` with another id is the head of no row (R71 (b), (c)). -/
theorem popOutcome_modify_id (hg : ∀ x, g x ≠ x) :
    popOutcome s.params ((encodeFrame s.params k body).modify 0 g) = .unknownId ∨
      popOutcome s.params ((encodeFrame s.params k body).modify 0 g) = .schemaMismatch := by
  obtain ⟨-, htokens, -⟩ := (Params.admitted_iff _).mp s.params_admitted
  rw [encodeFrame_cons, List.modify_zero_cons]
  refine popOutcome_of_no_row (by simp) fun j ⟨hid, _, htoken⟩ => ?_
  rw [bytes_append] at htoken
  obtain rfl := Params.tokensDistinct_iff.mp htokens j k htoken
  exact hg _ hid.symm

/-- The id of row `k` with other bytes for the length and the token (R85). -/
theorem popOutcome_of_other_head {len t0 t1 : Byte} {q : List Byte} (h2 : 2 ≤ q.length)
    (hne : [len, t0, t1] ≠
      [(s.params.registry k).len, (s.params.registry k).token.extractLsb' 0 8, (s.params.registry k).token.extractLsb' 8 8]) :
    popOutcome s.params ((s.params.registry k).id :: len :: t0 :: t1 :: q) = .schemaMismatch := by
  refine popOutcome_of_lookup_some (by simp; omega) (lookupById_id s.idsDistinct k) ?_
  rw [← not_and_or]
  rintro ⟨hlen, htoken⟩
  have h0 : (t1 ++ t0 : Half).extractLsb' 0 8 = t0 := commandWord_low t0 t1
  have h1 : (t1 ++ t0 : Half).extractLsb' 8 8 = t1 := commandWord_high t0 t1
  exact hne (by rw [← htoken, h0, h1, hlen])

theorem popOutcome_modify_head {j : Nat} (hg : ∀ x, g x ≠ x) (h1 : 1 ≤ j) (h4 : j < 4) :
    popOutcome s.params ((encodeFrame s.params k body).modify j g) = .schemaMismatch := by
  rw [encodeFrame_cons]
  interval_cases j <;> exact popOutcome_of_other_head (by simp) (by simp [hg])

/-- A changed body byte leaves the head and the two CRC bytes (R54). -/
theorem encodeFrame_modify_body {m : Nat} (hbody : body.length = lenOf s.params k) (hm : m < body.length) :
    let r := s.params.registry k
    let head := [r.id, r.len, r.token.extractLsb' 0 8, r.token.extractLsb' 8 8]
    let c := s.params.crc16 (head ++ body)
    (encodeFrame s.params k body).modify (m + 4) g = head ++ body.modify m g ++ [c.extractLsb' 0 8, c.extractLsb' 8 8] := by
  intro r head c
  rw [(frameLayout s.params k body hbody).1, modify_append_of_lt _ _ (by simp; omega)]
  rfl

/-- The head is still row `k`'s and the frame is whole, so the CRC of the changed bytes is compared with the one of the original ones (R87). -/
theorem popOutcome_modify_body {j : Nat} (hbody : body.length = lenOf s.params k) (h4 : 4 ≤ j) (hj : j < 4 + body.length)
    (hcrc : s.params.crc16 (((encodeFrame s.params k body).modify j g).take (4 + body.length)) ≠
      s.params.crc16 ((encodeFrame s.params k body).take (4 + body.length))) :
    popOutcome s.params ((encodeFrame s.params k body).modify j g) = .checksumMismatch k := by
  obtain ⟨m, rfl⟩ := Nat.exists_eq_add_of_le' h4
  have hchanged := encodeFrame_modify_body (g := g) hbody (show m < body.length by omega)
  rw [hchanged, (frameLayout s.params k body hbody).1, List.take_left' (by simp; omega), List.take_left' (by simp; omega)] at hcrc
  rw [hchanged.trans (List.append_nil _).symm]
  refine (popOutcome_frame s k (body.modify m g) _ _ [] ((List.length_modify ..).trans hbody)).trans (if_pos ?_)
  rwa [bytes_append]

end

theorem xor_bit_ne {i : Nat} (hi : i < 8) (x : Byte) : x ^^^ (1#8 <<< i) ≠ x := by
  have hbit : 1#8 <<< i ≠ 0#8 := by interval_cases i <;> decide
  exact fun h => hbit ((BitVec.xor_right_inj x).mp (h.trans BitVec.xor_zero.symm))

/-- Settles O28: the three ranges of the flipped byte, each with its outcome. -/
theorem flippedBitOutcomes : Obligations.FlippedBitOutcomes := by
  intro s k body j i f f' hbody hi hq
  have hg := xor_bit_ne hi
  refine ⟨msgPop s.params s, rfl, ?_⟩
  rw [lastStatus_msgPop, hq]
  refine ⟨fun hj => ?id, fun h1 h4 => ?head, fun h4 hj hcrc => ?body⟩
  case id =>
    subst hj
    exact (popOutcome_modify_id hg).imp (congrArg (some ∘ popStatus)) (congrArg (some ∘ popStatus))
  case head => exact congrArg (some ∘ popStatus) (popOutcome_modify_head hg h1 h4)
  case body => exact congrArg (some ∘ popStatus) (popOutcome_modify_body hbody h4 hj hcrc)

/-! ## `POP_ALL` (R97) -/

/-- A loop of more turns than `RXQ` has bytes ends with `INCOMPLETE`, since every other turn shortens `RXQ` (R97). -/
theorem popAll_ends (P : Params) (fuel : Nat) (s : State) (h : s.rxq.length < fuel) : lastStatus (popAll P fuel s) = some .incomplete := by
  induction fuel generalizing s with
  | zero => exact absurd h (Nat.not_lt_zero _)
  | succ fuel ih =>
    rw [popAll]
    split
    · assumption
    next hgo =>
      have hshorter := (msgPop_progress P s).resolve_left hgo
      exact ih _ (by omega)

/-- Settles O30: every turn that is not `INCOMPLETE` shortens `RXQ`, and an `INCOMPLETE` changes nothing that the next turn reads. -/
theorem popAllEnds : Obligations.PopAllEnds := by
  refine fun s => ⟨rfl, (msgPop_progress s.params s).resolve_left, popAll_ends s.params _ s (Nat.lt_succ_self _), fun h => ?repeats⟩
  have hout := lastStatus_msgPop_eq_incomplete.mp h
  rw [msgPop_of_incomplete hout]
  exact ⟨rfl, exec_msgPop_of_incomplete hout⟩

end Sys2Proof.Machine
end

section
/-! PROOFS. The State Aggregator (R100 to R107). After a tick the groups are those of the tick's writes with `prev` latched (`ctlProc_apply`), so
what a group holds then is read off its own latch and off the writes that reach it. -/

namespace Sys2Proof.Machine

/-! ## The latch of one group (R102) -/

theorem contains_map_groupOf {l : List GroupWrite} {G : Group} :
    (l.map groupOf).contains G = true ↔ ∃ w ∈ l, groupOf w = G := by
  rw [List.contains_iff_mem, List.mem_map]

/-- A group that no write reaches keeps its snapshot, which is what `hkept` says; the latch then has nothing to do. -/
theorem latchOne_of_writes {n : Nat} {l : List GroupWrite} {G : Group} {old new : Snapshot n}
    (hkept : (∀ w ∈ l, groupOf w ≠ G) → new = old) :
    ((∃ w ∈ l, groupOf w = G) → (latchOne ((l.map groupOf).contains G) old new).prev = old.cur) ∧
      (¬ (∃ w ∈ l, groupOf w = G) → latchOne ((l.map groupOf).contains G) old new = old) := by
  refine ⟨fun hwritten => ?written, fun hnone => ?unwritten⟩
  case written => rw [(latchOne_spec _ _ _).2, if_pos (contains_map_groupOf.mpr hwritten)]
  case unwritten =>
    have hnew : new = old := hkept fun w hw hG => hnone ⟨w, hw, hG⟩
    rw [latchOne, if_neg (mt contains_map_groupOf.mp hnone), hnew]

/-! ## The last write to a group (R101, R103) -/

/-- The vector of the write `w` is in the `cur` of the group `w` goes to. -/
def Groups.holds (g : Groups) : GroupWrite → Prop
  | .cref v => g.cref.cur = v
  | .cmeas v => g.cmeas.cur = v
  | .wmeas v => g.wmeas.cur = v
  | .gref v => g.gref.cur = v
  | .gpos v => g.gpos.cur = v
  | .grate v => g.grate.cur = v

theorem writeCur_holds (g : Groups) (w : GroupWrite) : (writeCur g w).holds w := by
  cases w <;> rfl

/-- Writes to other groups do not disturb a write. -/
theorem foldl_writeCur_holds {g : Groups} {w : GroupWrite} {l : List GroupWrite} (hl : ∀ x ∈ l, groupOf x ≠ groupOf w)
    (hw : g.holds w) : (l.foldl writeCur g).holds w := by
  obtain ⟨hcref, hcmeas, hwmeas, hgref, hgpos, hgrate⟩ := foldl_writeCur_other l g
  cases w with
  | cref v => exact (congrArg Snapshot.cur (hcref hl)).trans hw
  | cmeas v => exact (congrArg Snapshot.cur (hcmeas hl)).trans hw
  | wmeas v => exact (congrArg Snapshot.cur (hwmeas hl)).trans hw
  | gref v => exact (congrArg Snapshot.cur (hgref hl)).trans hw
  | gpos v => exact (congrArg Snapshot.cur (hgpos hl)).trans hw
  | grate v => exact (congrArg Snapshot.cur (hgrate hl)).trans hw

/-- Latching touches `prev` only. -/
theorem latchPrev_holds {written : List Group} {old new : Groups} {w : GroupWrite} (hw : new.holds w) :
    (latchPrev written old new).holds w := by
  cases w <;> exact (latchOne_spec _ _ _).1.trans hw

/-! ## A tick -/

theorem exec_ctlProc_apply {s t : State} (h : exec .ctlProc s = .next t) :
    t.groups = latchPrev ((tickWrites s).map groupOf) s.groups ((tickWrites s).foldl writeCur s.groups) ∧
      t.sideSt = tickSide s ∧ ∀ k : Kind, t.mbox[k] = ⟨false, s.mbox[k].body⟩ := by
  obtain ⟨hgroups, hside, hmbox, -, -⟩ := ctlProc_apply (exec_ctlProc_next.mp h)
  exact ⟨hgroups, hside, hmbox⟩

/-- Settles O31: step (1) of a tick is `Apply`, and the other steps leave the groups, the side channel and the mailboxes. -/
theorem tickAppliesFreshMessages : Obligations.TickAppliesFreshMessages :=
  fun _ _ => exec_ctlProc_apply

/-- Settles O32: each of the six groups goes through its own latch, and a group that no write of the tick reaches is as it was. -/
theorem previousIsStartOfTick : Obligations.PreviousIsStartOfTick := by
  intro s t hexec written
  obtain ⟨hgroups, -, -⟩ := exec_ctlProc_apply hexec
  obtain ⟨hcref, hcmeas, hwmeas, hgref, hgpos, hgrate⟩ := foldl_writeCur_other (tickWrites s) s.groups
  rw [hgroups]
  exact ⟨latchOne_of_writes hcref, latchOne_of_writes hcmeas, latchOne_of_writes hwmeas, latchOne_of_writes hgref,
    latchOne_of_writes hgpos, latchOne_of_writes hgrate⟩

/-- Settles O33: the write puts its vector into `cur`; the later writes, all to other groups, and the latch leave it there. -/
theorem lastWriteOfTickStands : Obligations.LastWriteOfTickStands := by
  intro s t early late w hexec hsplit hlate
  obtain ⟨hgroups, -, -⟩ := exec_ctlProc_apply hexec
  have hstands : ((tickWrites s).foldl writeCur s.groups).holds w := by
    rw [hsplit, List.foldl_append, List.foldl_cons]
    exact foldl_writeCur_holds hlate (writeCur_holds _ w)
  have hholds : t.groups.holds w := by
    rw [hgroups]
    exact latchPrev_holds hstands
  cases w <;> exact hholds

end Sys2Proof.Machine
end

section
/-! PROOFS. The PID bank (R110 to R124): the clamp and one PID step case by case, the mecanum map row by row, and a tick that runs both cascades. -/

namespace Sys2Proof.Machine

/-! ## The clamp (R112, R120) -/

section
variable {N : NumDomain} {x limit : NUM}

theorem clamp_of_gt (h : N.gt x limit = true) : clamp N x limit = limit := if_pos h

theorem clamp_of_lt (h : N.gt x limit = false) (h' : N.gt (N.neg limit) x = true) : clamp N x limit = N.neg limit := by
  rw [clamp, h, NumDomain.lt, h', if_neg Bool.false_ne_true, if_pos rfl]

theorem clamp_of_between (h : N.gt x limit = false) (h' : N.gt (N.neg limit) x = false) : clamp N x limit = x := by
  rw [clamp, h, NumDomain.lt, h', if_neg Bool.false_ne_true, if_neg Bool.false_ne_true]

theorem limitAdmitted_of (hf : N.isFinite limit = true) (hz : N.gt NUM.zero limit = false) : limitAdmitted N limit = true := by
  rw [limitAdmitted, hf, hz]; rfl

end

/-- Settles O34: the three cases are the branches of `clamp`. Neither boundary value is beyond a limit, since `-L > L` and `x > x` are false. -/
theorem clampStaysWithinLimit : Obligations.ClampStaysWithinLimit := by
  intro N x limit hf hz
  have hle : N.gt (N.neg limit) limit = false := N.neg_le_self _ hf hz
  exact ⟨clamp_of_gt, clamp_of_lt, clamp_of_between, clamp_of_between (N.gt_irrefl _) hle, clamp_of_between hle (N.gt_irrefl _),
    clamp_within (limitAdmitted_of hf hz)⟩

/-! ## One PID step (R113 to R119) -/

section
variable {N : NumDomain} {c : PidCfg} {r : PidRegs} {sp m dt : NUM}

theorem pidStep_of_hold (hdt : N.gt dt NUM.zero = false) : pidStep N c r sp m dt = .ok r := by
  rw [pidStep, hdt]; rfl

theorem pidStep_of_dt (hdt : N.gt dt NUM.zero = true) : pidStep N c r sp m dt =
    if N.isNaN (pidNext N c r sp m dt).iacc || N.isNaN (pidNext N c r sp m dt).out then .error .mfPidNan
    else .ok (pidNext N c r sp m dt) := by
  rw [pidStep, hdt]; rfl

theorem pidStep_of_nan (hdt : N.gt dt NUM.zero = true)
    (hnan : N.isNaN (pidNext N c r sp m dt).iacc = true ∨ N.isNaN (pidNext N c r sp m dt).out = true) :
    pidStep N c r sp m dt = .error .mfPidNan := by
  rw [pidStep_of_dt hdt, if_pos (Bool.or_eq_true_iff.mpr hnan)]

theorem pidStep_of_number (hdt : N.gt dt NUM.zero = true) (hia : N.isNaN (pidNext N c r sp m dt).iacc = false)
    (hu : N.isNaN (pidNext N c r sp m dt).out = false) : pidStep N c r sp m dt = .ok (pidNext N c r sp m dt) := by
  rw [pidStep_of_dt hdt, hia, hu]; rfl

end

/-- Settles O35: the values written out are the registers of `pidNext`, and the three clauses are the outcomes of `pidStep`. -/
theorem pidStepFormula : Obligations.PidStepFormula := by
  intro N c r sp m dt e p ia d u
  have hnext : pidNext N c r sp m dt = ⟨ia, e, m, u⟩ := rfl
  refine ⟨pidStep_of_hold, fun hdt hnan => ?nan, fun hdt hia hu => ?number⟩
  case nan => exact pidStep_of_nan hdt hnan
  case number => rw [pidStep_of_number hdt hia hu, hnext]

/-! ## The mecanum map (R121) -/

theorem mecIK_get (P : Params) (vc : Vector NUM 3) (j : Fin 4) : (mecIK P vc)[j] = mecRow P vc j := by
  fin_cases j <;> rfl

/-- Settles O36: entry `j` of the map is the row of wheel `j`. -/
theorem mecanumMapRows : Obligations.MecanumMapRows :=
  fun P x y z j => mecIK_get P #v[x, y, z] j

/-! ## When a tick completes (R119, R132, R141) -/

theorem exec_ctlProc_fault {s : State} {f : Fault} : exec .ctlProc s = .fault f ↔ ctlProc s.params s = .error f := by
  unfold exec execCtlProc
  simp only
  split <;> simp [*]

theorem exec_ctlProc_isNext (s : State) : (∃ t, exec .ctlProc s = .next t) ↔ s.sched ≠ .uninitialized ∧ TickDefined s := by
  constructor
  · rintro ⟨t, ht⟩
    obtain ⟨hinit, u, hu, -⟩ := ctlProc_ok (exec_ctlProc_next.mp ht)
    exact ⟨hinit, (cascadeIfRunning_isOk s hinit).mp ⟨u, hu⟩⟩
  · rintro ⟨hinit, hdef⟩
    obtain ⟨u, hu⟩ := (cascadeIfRunning_isOk s hinit).mpr hdef
    exact ⟨_, exec_ctlProc_of_cascade hinit hu⟩

/-- Settles O39: a tick has a result exactly when its step (2) has one, and `MF_PID_NAN` is the only fault of an initialised block. -/
theorem tickCompletesUnlessNaN : Obligations.TickCompletesUnlessNaN := by
  intro s
  refine ⟨exec_ctlProc_isNext s, fun hinit hundef => ?fault⟩
  case fault =>
    cases hproc : ctlProc s.params s with
    | ok t => exact absurd ((exec_ctlProc_isNext s).mp ⟨t, exec_ctlProc_next.mpr hproc⟩).2 hundef
    | error f =>
      rcases ctlProc_fault hproc with ⟨huninit, -⟩ | ⟨-, rfl⟩
      · exact absurd huninit hinit
      · exact exec_ctlProc_fault.mpr hproc

/-! ## A tick that runs the cascades (R132 to R138) -/

@[simp] theorem startTick_pid (s : State) : (startTick s).pid = s.pid := by rw [startTick_frame]
@[simp] theorem startTick_sink (s : State) : (startTick s).sink = s.sink := by rw [startTick_frame]

/-- Steps (0) and (1) leave the bank and the sink, and a `Ready` or `Running` block is then running (R133). -/
theorem apply_startTick_running (P : Params) {s : State} (h : s.sched = .ready ∨ s.sched = .running) :
    (apply P (startTick s)).1.sched = .running ∧ (apply P (startTick s)).1.pid = s.pid ∧ (apply P (startTick s)).1.sink = s.sink := by
  rw [apply_frame]
  dsimp only
  exact ⟨startTick_ready h, startTick_pid s, startTick_sink s⟩

@[simp] theorem finishTick_pid (P : Params) (fresh : Bool) (s : State) : (finishTick P fresh s).pid = s.pid := by
  rw [finishTick_frame]

@[simp] theorem finishTick_groups (P : Params) (fresh : Bool) (s : State) : (finishTick P fresh s).groups = s.groups := by
  rw [finishTick_frame]

/-- The dispatched outputs are those before the check of the watchdog (R136). -/
theorem finishTick_sink (P : Params) (fresh : Bool) (s : State) : (finishTick P fresh s).sink = s.sink ++ [⟨s.cmdW, s.cmdG⟩] := by
  rw [finishTick_eq, checkStale]
  split <;> rfl

theorem finishTick_response (P : Params) (fresh : Bool) (s : State) :
    (finishTick P fresh s).response = some ⟨.ok, .sched (finishTick P fresh s).sched⟩ := rfl

theorem finishTick_age_eq_heartbeat (P : Params) (fresh : Bool) (s : State) :
    (finishTick P fresh s).wdgAge = (heartbeat P fresh (dispatch s)).wdgAge := finishTick_age P fresh s

section
variable {P : Params} {fresh : Bool} {s : State}

/-- A running block whose watchdog is not stale keeps running with the outputs of step (2) (R138). -/
theorem finishTick_of_not_stale (hrun : s.sched = .running) (hage : (finishTick P fresh s).wdgAge.toNat ≤ ERR_TSK_TMS) :
    (finishTick P fresh s).sched = .running ∧ (finishTick P fresh s).cmdW = s.cmdW ∧ (finishTick P fresh s).cmdG = s.cmdG := by
  rw [finishTick_age_eq_heartbeat] at hage
  have hcheck : checkStale (heartbeat P fresh (dispatch s)) = heartbeat P fresh (dispatch s) :=
    if_neg fun hstale => Nat.not_lt.mpr hage hstale.2
  rw [finishTick_eq, hcheck]
  exact ⟨hrun, rfl, rfl⟩

/-- A running block whose watchdog is stale is faulted, with its six outputs +0 (R138). -/
theorem finishTick_of_stale (hrun : s.sched = .running) (hage : ERR_TSK_TMS < (finishTick P fresh s).wdgAge.toNat) :
    (finishTick P fresh s).sched = .faulted ∧ outputsZero (finishTick P fresh s) := by
  rw [finishTick_age_eq_heartbeat] at hage
  have hcheck : checkStale (heartbeat P fresh (dispatch s)) = enterFaulted (heartbeat P fresh (dispatch s)) := if_pos ⟨hrun, hage⟩
  rw [finishTick_eq, hcheck]
  exact ⟨rfl, rfl, rfl⟩

end

/-- Settles O40: step (2) runs both cascades on what `Apply` left (`cascade_ok`), steps (3) and (4) leave the bank and the groups, and the check
of the watchdog alone decides `SCHED` and whether the outputs stand. -/
theorem runningTickRunsTheCascades : Obligations.RunningTickRunsTheCascades := by
  intro s hs hdef
  have hinit : s.sched ≠ .uninitialized := by rcases hs with h | h <;> simp [h]
  obtain ⟨u, hu⟩ := (cascadeIfRunning_isOk s hinit).mpr hdef
  refine ⟨_, exec_ctlProc_of_cascade hinit hu, ?_⟩
  obtain ⟨hrunning, hpid, hsink⟩ := apply_startTick_running s.params hs
  generalize apply s.params (startTick s) = a at hu hrunning hpid hsink ⊢
  rw [cascadeIfRunning, if_pos hrunning] at hu
  have hframe := cascade_frame hu
  have hgroups : u.groups = a.1.groups := by rw [hframe]
  have husink : u.sink = s.sink := by rw [hframe]; exact hsink
  have husched : u.sched = .running := by rw [hframe]; exact hrunning
  obtain ⟨hchassis, hwheel, hgimbal, hw, hg⟩ := cascade_ok hu
  rw [← hgroups, hpid] at hchassis hwheel hgimbal
  rw [finishTick_pid, finishTick_groups, finishTick_sink, husink, ← hw, ← hg]
  exact ⟨hchassis, hwheel, hgimbal, rfl, finishTick_of_not_stale husched, finishTick_of_stale husched, finishTick_response _ _ _⟩

end Sys2Proof.Machine
end

section
/-! PROOFS. The Control Scheduler (R130 to R143): `CTL_INIT`, the frame of a tick, the watchdog, and the transitions of `SCHED`. A step is
`CTL_INIT`, `CTL_PROC` or one that leaves the control side (`step_frame_of_not_ctl`), so what a run keeps is a fact about its ticks. -/

namespace Sys2Proof.Machine

/-! ## `CTL_INIT`, and `CTL_PROC` before it (R131, R141) -/

/-- Settles O37: `CTL_INIT` is `initControl` and its response, and the zeros of `initControl` are the ones written out. -/
theorem ctlInitZeroesControl : Obligations.CtlInitZeroesControl := by
  intro s
  calc exec .ctlInit s = .next ((initControl s).respond ⟨.ok, .sched .ready⟩) := rfl
    _ = _ := by rw [initControl_eq]; rfl

/-- Settles O38: `CTL_PROC` looks at `SCHED` before it begins a tick. -/
theorem procBeforeInitFaults : Obligations.ProcBeforeInitFaults :=
  fun _ huninit => exec_ctlProc_fault.mpr (if_pos huninit)

/-! ## The frame of a tick (R132, R135, R136) -/

/-- A tick changes the control side, the mailbox and the response; the one event it dispatches carries the outputs step (2) left. -/
theorem ctlProc_changes {P : Params} {s t : State} (h : ctlProc P s = .ok t) : ∃ e : DispatchEvent,
    t = { s with sched := t.sched, wdgAge := t.wdgAge, mbox := t.mbox, sideSt := t.sideSt, groups := t.groups, pid := t.pid,
                 cmdW := t.cmdW, cmdG := t.cmdG, sink := s.sink ++ [e], response := some ⟨.ok, .sched t.sched⟩ } := by
  obtain ⟨-, u, hu, rfl⟩ := ctlProc_ok h
  have hsink : u.sink = s.sink := by rw [cascadeIfRunning_frame hu, apply_frame]; exact startTick_sink s
  refine ⟨⟨u.cmdW, u.cmdG⟩, ?_⟩
  rw [← hsink, ← finishTick_sink P (apply P (startTick s)).2 u, ← finishTick_response]
  generalize (apply P (startTick s)).2 = fresh
  rw [finishTick_frame, cascadeIfRunning_frame hu, apply_frame, startTick_frame]

/-- Settles O42, by the frame of `CTL_PROC`. -/
theorem tickFrame : Obligations.TickFrame :=
  fun _ _ h => ctlProc_changes (exec_ctlProc_next.mp h)

/-- The end of a tick of a block that is not running only dispatches, counts and answers (R136 to R138). -/
theorem finishTick_of_not_running {P : Params} {fresh : Bool} {s : State} (h : s.sched ≠ .running) :
    finishTick P fresh s = { s with wdgAge := (finishTick P fresh s).wdgAge, sink := s.sink ++ [⟨s.cmdW, s.cmdG⟩],
                                    response := some ⟨.ok, .sched s.sched⟩ } := by
  have hcheck : checkStale (heartbeat P fresh (dispatch s)) = heartbeat P fresh (dispatch s) := if_neg fun hstale => h hstale.1
  rw [finishTick_eq, hcheck]
  rfl

/-- Settles O41: in `Faulted` step (0) does nothing, step (2) does not run, and the check of the watchdog does not apply. -/
theorem faultedTickHoldsTheBank : Obligations.FaultedTickHoldsTheBank := by
  intro s hfaulted
  have hstart : startTick s = s := if_neg (by simp [hfaulted])
  have happly := apply_frame s.params s
  have hnot : (apply s.params s).1.sched ≠ .running := by rw [happly]; simp [hfaulted]
  have hcascade : cascadeIfRunning s.params (apply s.params (startTick s)).1 = .ok (apply s.params s).1 := by
    rw [hstart]; exact if_neg hnot
  refine ⟨_, exec_ctlProc_of_cascade (by simp [hfaulted]) hcascade, ?_⟩
  rw [finishTick_of_not_running hnot, happly, ← hfaulted]

/-! ## The watchdog's age (R137) -/

/-- The sum is computed exactly and then saturated, so it always fits. -/
theorem ageAdd_toNat (age : Word) (ms : Nat) : (ageAdd age ms).toNat = min (age.toNat + ms) (2 ^ 32 - 1) := by
  rw [ageAdd, BitVec.toNat_ofNat]
  exact Nat.mod_eq_of_lt (by omega)

theorem ctlProc_age_of_quiet {s t : State} (h : ctlProc s.params s = .ok t) (hquiet : tickWrites s = []) :
    t.wdgAge.toNat = min (s.wdgAge.toNat + s.params.ctlPeriodMs) (2 ^ 32 - 1) := by
  obtain ⟨-, -, -, -, hage⟩ := ctlProc_apply h
  rw [hage hquiet, ageAdd_toNat]

/-- Settles O43: the writes of a tick decide which of its two values `WDG_AGE` takes. -/
theorem watchdogCountsStaleTicks : Obligations.WatchdogCountsStaleTicks := by
  intro s t h
  have hproc := exec_ctlProc_next.mp h
  obtain ⟨-, -, -, hfresh, -⟩ := ctlProc_apply hproc
  exact ⟨hfresh, ctlProc_age_of_quiet hproc⟩

/-! ## The entry into `Faulted` (R138, R164) -/

/-- Settles O44: outside `Faulted` a tick ends in `Faulted` or `Running` as its watchdog is stale or not. -/
theorem faultEntryZeroesOutputs : Obligations.FaultEntryZeroesOutputs := by
  refine ⟨enterFaulted_eq, fun s t h hn => ?entered⟩
  case entered =>
    obtain ⟨-, -, hsched⟩ := ctlProc_sched (exec_ctlProc_next.mp h)
    rw [hsched hn]
    change _ ↔ ERR_TSK_TMS < _
    split <;> simp [*]

/-! ## Every step (R130, R140, R199) -/

theorem step_of_nextIs {i : Instr} {s : State} (h : nextIs i s) : ∃ rest, step s = exec i (s.withPending rest) := by
  obtain ⟨w, d, rest, hp, hd⟩ := h
  exact ⟨rest, (step_of_pending hp).trans (issue_of_decode_ok hd _)⟩

/-- A command that is not one of the two control commands leaves the control side (R199). -/
theorem exec_frame_of_not_ctl {i : Instr} {s t : State} (h : exec i s = .next t) (hinit : i ≠ .ctlInit) (hproc : i ≠ .ctlProc) :
    t = { s with cnt := t.cnt, rxq := t.rxq, txq := t.txq, mbox := t.mbox, response := t.response } := by
  have hc := exec_cases h
  cases i with
  | nop | regById _ | regByKind _ | rdReg _ => rw [hc]
  | msgPush b body => rw [hc, msgPush_frame]
  | msgPop => rw [hc, msgPop_frame]
  | ctlInit => exact absurd rfl hinit
  | ctlProc => exact absurd rfl hproc

/-- A step that is not one of the two control commands leaves the control side, the sink and the block's tag (R199). -/
theorem step_frame_of_not_ctl {s t : State} (h : step s = .next t) (hinit : ¬ nextIs .ctlInit s) (hproc : ¬ nextIs .ctlProc s) :
    t = { s with cnt := t.cnt, rxq := t.rxq, txq := t.txq, mbox := t.mbox, pending := t.pending, response := t.response,
                 link := t.link } := by
  rcases step_cases h with ⟨-, rfl⟩ | ⟨b, rest, -, rfl⟩ | ⟨b, q, rest, -, -, rfl⟩ | ⟨w, d, rest, i, hp, hd, hexec⟩ | ⟨w, d, rest, e, -, -, rfl⟩
  · rfl
  · rw [rxPush_frame]; rfl
  · rfl
  · rw [exec_frame_of_not_ctl hexec (fun hi => hinit ⟨w, d, rest, hp, hi ▸ hd⟩) (fun hi => hproc ⟨w, d, rest, hp, hi ▸ hd⟩)]
    rfl
  · rfl

/-- Settles O45: `CTL_INIT` enters `Ready`, a tick moves `SCHED` as `ctlProc_sched` says, and every other step leaves it. -/
theorem schedulerTransitions : Obligations.SchedulerTransitions := by
  intro s t h
  by_cases hinit : nextIs .ctlInit s
  · obtain ⟨rest, hstep⟩ := step_of_nextIs hinit
    have ht : t = ctlInit (s.withPending rest) := exec_cases (hstep.symm.trans h)
    exact .inr (.inl ⟨hinit, by rw [ht]; rfl⟩)
  by_cases hproc : nextIs .ctlProc s
  · obtain ⟨rest, hstep⟩ := step_of_nextIs hproc
    obtain ⟨huninit, hfaulted, hlive⟩ := ctlProc_sched (exec_ctlProc_next.mp (hstep.symm.trans h))
    simp only [State.withPending_sched] at huninit hfaulted hlive
    cases hs : s.sched with
    | uninitialized => exact absurd hs huninit
    | ready => rw [hlive (by simp [hs])]; split <;> simp [hproc]
    | running => rw [hlive (by simp [hs])]; split <;> simp [hproc]
    | faulted => exact .inl (hfaulted hs)
  · exact .inl (by rw [step_frame_of_not_ctl h hinit hproc])

/-! ## The watchdog over a run (R143) -/

/-- What a run from `s` with `n` quiet ticks leaves: the age of `n` periods, and the scheduler state that goes with it. -/
structure StaleFor (s : State) (n : Nat) (t : State) : Prop where
  params : t.params = s.params
  age : t.wdgAge.toNat = min (n * s.params.ctlPeriodMs) (2 ^ 32 - 1)
  sched : t.sched = if ERR_TSK_TMS < n * s.params.ctlPeriodMs then .faulted else if n = 0 then s.sched else .running

theorem StaleFor.start {s : State} (hage : s.wdgAge = 0) : StaleFor s 0 s where
  params := rfl
  age := by simp [hage]
  sched := by simp

/-- A step that is no control command changes nothing the watchdog depends on. -/
theorem StaleFor.other {s t u : State} {n : Nat} (h : StaleFor s n t) (hinit : ¬ nextIs .ctlInit t) (hproc : ¬ nextIs .ctlProc t)
    (hstep : step t = .next u) : StaleFor s n u := by
  rw [step_frame_of_not_ctl hstep hinit hproc]
  exact { h with }

/-- A quiet tick adds a period; a block it finds faulted stays so, and any other is faulted exactly when the new age is stale. -/
theorem StaleFor.tick {s t u : State} {n : Nat} (h : StaleFor s n t) (hs : s.sched ≠ .faulted) (hnext : nextIs .ctlProc t)
    (hquiet : tickWrites t = []) (hstep : step t = .next u) : StaleFor s (n + 1) u := by
  obtain ⟨rest, hexec⟩ := step_of_nextIs hnext
  have hproc : ctlProc t.params (t.withPending rest) = .ok u := exec_ctlProc_next.mp (hexec.symm.trans hstep)
  obtain ⟨-, -, -, -, -, hconfig⟩ := ctlProc_frame hproc
  obtain ⟨-, hfaulted, hlive⟩ := ctlProc_sched hproc
  have hage := ctlProc_age_of_quiet hproc hquiet
  simp only [State.withPending_sched, State.withPending_wdgAge, State.params_withPending, h.params, h.age] at hfaulted hlive hage
  have hsucc : (n + 1) * s.params.ctlPeriodMs = n * s.params.ctlPeriodMs + s.params.ctlPeriodMs := Nat.succ_mul _ _
  have huage : u.wdgAge.toNat = min ((n + 1) * s.params.ctlPeriodMs) (2 ^ 32 - 1) := by omega
  refine ⟨(State.params_congr hconfig).trans h.params, huage, ?_⟩
  by_cases hstale : ERR_TSK_TMS < n * s.params.ctlPeriodMs
  · have htsched : t.sched = .faulted := by rw [h.sched, if_pos hstale]
    rw [hfaulted htsched, if_pos (by omega)]
  · have htsched : t.sched ≠ .faulted := by
      rw [h.sched, if_neg hstale]
      split
      · exact hs
      · simp
    have hiff : ERR_TSK_TMS < u.wdgAge.toNat ↔ ERR_TSK_TMS < (n + 1) * s.params.ctlPeriodMs := by
      rw [huage, ERR_TSK_TMS]
      omega
    rw [hlive htsched, if_neg (Nat.succ_ne_zero n)]
    simp only [hiff]

theorem QuietRun.staleFor {s t : State} {n : Nat} (hrun : QuietRun s n t) (hs : s.sched ≠ .faulted) (hage : s.wdgAge = 0) :
    StaleFor s n t := by
  induction hrun with
  | start => exact .start hage
  | tick _ hnext hquiet hstep ih => exact ih.tick hs hnext hquiet hstep
  | other _ hproc hinit hstep ih => exact ih.other hinit hproc hstep

theorem State.ctlPeriodMs_pos (s : State) : 0 < s.params.ctlPeriodMs := by
  obtain ⟨-, -, -, -, -, -, -, hperiod, -⟩ := (Params.admitted_iff _).mp s.params_admitted
  exact Params.periodAdmitted_iff.mp hperiod

/-- Settles O46: the run leaves `n` periods on the watchdog (`QuietRun.staleFor`), and dividing by the positive period gives the tick at which they
first exceed 100. -/
theorem watchdogTiming : Obligations.WatchdogTiming := by
  intro s t n hs hage hrun hn
  have hlive : s.sched ≠ .faulted := by rcases hs with h | h <;> simp [h]
  have hstale := hrun.staleFor hlive hage
  have hsched : t.sched = if 100 < n * s.params.ctlPeriodMs then .faulted else .running := by
    rw [hstale.sched, if_neg hn.ne', ERR_TSK_TMS]
  have hfaulted : t.sched = .faulted ↔ 100 < n * s.params.ctlPeriodMs := by rw [hsched]; split <;> simp [*]
  have hrunning : t.sched = .running ↔ n * s.params.ctlPeriodMs ≤ 100 := by rw [hsched]; split <;> simp <;> omega
  have hpos := s.ctlPeriodMs_pos
  exact ⟨hstale.age, hfaulted, hfaulted.trans (Nat.div_lt_iff_lt_mul hpos).symm, hrunning.trans (Nat.le_div_iff_mul_le hpos).symm⟩

end Sys2Proof.Machine
end

section
/-! PROOFS. Telemetry readback (R150 to R152): the selector map both ways, what `RD_REG` answers for the selector of a register, and the bits of
`MBOX_FRESH`; and `NOP` (R153). -/

namespace Sys2Proof.Machine

/-! ## The selector map -/

/-- The selector of a register names that register (R151). -/
theorem selOf?_selByte (r : RegSel) : selOf? (selByte r) = some r := by
  cases r with
  | sched | wdgAge | rxqLen | txqLen | mboxFresh => decide
  | counter c => cases c <;> decide
  | cref slot j | cmeas slot j | wmeas slot j | gref slot j | gpos slot j | grate slot j =>
    revert j
    cases slot <;> decide
  | cmdW j | cmdG j =>
    revert j
    decide
  | pid i f =>
    revert i
    cases f <;> decide

/-- The selectors that R151 marks "init". -/
theorem selOf?_any_isInit (sel : Byte) :
    (selOf? sel).any isInit = true ↔
      sel.toNat = 0x01 ∨ (0x10 ≤ sel.toNat ∧ sel.toNat ≤ 0x35) ∨ (0x40 ≤ sel.toNat ∧ sel.toNat ≤ 0x6B) := by
  revert sel
  decide

/-- Settles O6: `selOf?_selByte`, and the selectors that name a register are the listed ones (`selOf?_listed`). -/
theorem selectorMapIsExact : Obligations.SelectorMapIsExact := by
  refine ⟨selOf?_selByte, fun sel => ?_⟩
  rw [selOf?_listed]
  simp [selectorListed, or_assoc]

/-! ## What `RD_REG` answers -/

theorem exec_rdReg_of_unlisted {sel : Byte} (h : selectorListed sel = false) (s : State) :
    exec (.rdReg sel) s = .next { s with response := some ⟨.illegalCommand, .none⟩ } := by
  have hsel : selOf? sel = none := by rw [← Option.not_isSome_iff_eq_none, selOf?_listed, h]; decide
  exact exec_rdReg_next.mpr (by rw [rdReg, hsel]; rfl)

theorem exec_rdReg_of_initialized {sel : Byte} {r : RegSel} {s : State} (hsel : selOf? sel = some r)
    (hinit : isInit r = true → s.sched ≠ .uninitialized) :
    exec (.rdReg sel) s = .next { s with response := some ⟨.ok, readReg s r⟩ } := by
  have hguard : ¬ (isInit r && s.sched == .uninitialized) = true := by simpa using hinit
  exact exec_rdReg_next.mpr (by simp only [rdReg, hsel, if_neg hguard]; rfl)

theorem exec_rdReg_before_init {sel : Byte} {s : State} (hinit : (selOf? sel).any isInit = true) (hs : s.sched = .uninitialized) :
    exec (.rdReg sel) s = .fault .mfReadBeforeInit := by
  obtain ⟨r, hsel, hr⟩ := (Option.any_eq_true _ _).mp hinit
  have h : rdReg sel s = .error .mfReadBeforeInit := by simp [rdReg, hsel, hr, hs]
  simp only [exec, execRdReg, h]

/-- The selector `n` of the register `r` reads `r` (R150, R151). -/
theorem readsAs_of_selByte {s : State} {n : Nat} (r : RegSel) (hn : selByte r = BitVec.ofNat 8 n)
    (hinit : isInit r = true → s.sched ≠ .uninitialized) : readsAs s n (readReg s r) := by
  rintro sel rfl
  have hsel : sel = selByte r := by rw [hn, BitVec.ofNat_toNat, BitVec.setWidth_eq]
  exact exec_rdReg_of_initialized (hsel ▸ selOf?_selByte r) hinit

/-- Settles O50: the unlisted ranges are the complement of R151's map, and the "init" ranges are its marked rows. -/
theorem rdRegStopsAndIllegal : Obligations.RdRegStopsAndIllegal := fun s sel =>
  ⟨fun h => exec_rdReg_of_unlisted (selectorListed_eq_false.mpr h) s,
    fun h hs => exec_rdReg_before_init ((selOf?_any_isInit sel).mpr h) hs⟩

theorem readsAs_schedWord (s : State) : readsAs s 0x00 (.u32 (schedWord s.sched)) := readsAs_of_selByte .sched rfl nofun

theorem queueLenWord_of_lt {n : Nat} (h : n < 2 ^ 32) : queueLenWord n = BitVec.ofNat 32 n := if_pos h

/-- Settles O48: `readsAs_of_selByte` for each register of R151, with the selector that `selByte` gives it. -/
theorem rdRegReadsSelectedRegister : Obligations.RdRegReadsSelectedRegister := by
  intro s
  have always {n : Nat} (r : RegSel) (hn : selByte r = BitVec.ofNat 8 n) (hr : isInit r = false) : readsAs s n (readReg s r) :=
    readsAs_of_selByte r hn (by simp [hr])
  refine ⟨?sched, always (.counter .popOk) rfl rfl, always (.counter .unknownId) rfl rfl, always (.counter .schema) rfl rfl,
    always (.counter .checksum) rfl rfl, always (.counter .pushOk) rfl rfl, always (.counter .lenOverflow) rfl rfl,
    always (.counter .noSpace) rfl rfl, always (.counter .rxDrop) rfl rfl, ⟨_, always .rxqLen rfl rfl, queueLenWord_of_lt⟩,
    ⟨_, always .txqLen rfl rfl, queueLenWord_of_lt⟩, always .mboxFresh rfl rfl, ?init⟩
  case sched =>
    have hword := readsAs_schedWord s
    cases hs : s.sched <;> rw [hs] at hword <;> exact hword
  case init =>
    intro hs
    have read {n : Nat} (r : RegSel) (hn : selByte r = BitVec.ofNat 8 n) : readsAs s n (readReg s r) :=
      readsAs_of_selByte r hn fun _ => hs
    refine ⟨read .wdgAge rfl, fun j => ?chassis, fun j => ?wheels, fun a => ?gimbal, fun i => ?pid⟩
    case chassis => exact ⟨read (.cref .cur j) rfl, read (.cref .prev j) rfl, read (.cmeas .cur j) rfl, read (.cmeas .prev j) rfl⟩
    case wheels => exact ⟨read (.wmeas .cur j) rfl, read (.wmeas .prev j) rfl, read (.cmdW j) rfl⟩
    case gimbal =>
      exact ⟨read (.gref .cur a) rfl, read (.gref .prev a) rfl, read (.gpos .cur a) rfl, read (.gpos .prev a) rfl,
        read (.grate .cur a) rfl, read (.grate .prev a) rfl, read (.cmdG a) rfl⟩
    case pid => exact ⟨read (.pid i .iacc) rfl, read (.pid i .perr) rfl, read (.pid i .pmeas) rfl, read (.pid i .out) rfl⟩

/-! ## The bits of `MBOX_FRESH` -/

theorem getLsbD_or_bit {w : Word} {k i : Nat} (hk : k < 32) :
    (w ||| (1#32 <<< k)).getLsbD i = true ↔ w.getLsbD i = true ∨ k = i := by
  have hbit : (1#32 <<< k).getLsbD i = true ↔ k = i := by
    simp only [← BitVec.twoPow_eq, BitVec.getLsbD_twoPow, Bool.and_eq_true, decide_eq_true_iff, and_iff_right hk]
  rw [BitVec.getLsbD_or, Bool.or_eq_true, hbit]

/-- The bits of a word that starts as `w` and takes the bit of each kind in `l` that has `p`. -/
theorem getLsbD_foldl_or_bit (p : Kind → Bool) (l : List Kind) (w : Word) (i : Nat) :
    (l.foldl (fun w k => if p k then w ||| (1#32 <<< k.val) else w) w).getLsbD i = true ↔
      w.getLsbD i = true ∨ ∃ k ∈ l, k.val = i ∧ p k = true := by
  induction l generalizing w with
  | nil => simp
  | cons k l ih =>
    rw [List.foldl_cons, ih]
    by_cases hk : p k = true
    · rw [if_pos hk, getLsbD_or_bit (by omega)]
      simp [hk, or_assoc]
    · simp [hk]

/-- Bit `i` of `MBOX_FRESH` is set exactly when a mailbox of index `i` is fresh (R151). -/
theorem getLsbD_freshWord (mbox : Vector Mailbox 21) (i : Nat) :
    (freshWord mbox).getLsbD i = true ↔ ∃ k : Kind, k.val = i ∧ mbox[k].fresh = true := by
  rw [freshWord, getLsbD_foldl_or_bit fun k => mbox[k].fresh]
  simp [kinds]

/-- Settles O49: a set bit belongs to a fresh mailbox (`getLsbD_freshWord`), and no mailbox has an index above 20. -/
theorem freshWordBits : Obligations.FreshWordBits := by
  refine fun s => ⟨fun k => ?_, fun i hi => ?_⟩
  · rw [Bool.eq_iff_iff, getLsbD_freshWord]
    simp [Fin.val_inj]
  · rw [Bool.eq_false_iff, Ne, getLsbD_freshWord]
    rintro ⟨k, rfl, -⟩
    omega

/-! ## `NOP` -/

/-- Settles O51: the meaning of `NOP` is the statement (R153). -/
theorem nopChangesNothing : Obligations.NopChangesNothing := fun _ => rfl

end Sys2Proof.Machine
end

section
/-! PROOFS. The status codes per command word (R160, R161). A word that decodes answers a code of its command's row (`exec_status`), and the
word is the encoding of that command, so the row is the one of the word's opcode; a word that does not decode answers `ILLEGAL_COMMAND`, which
every row lists but the one of `REG_BY_ID`. -/

namespace Sys2Proof.Machine

/-- `REG_BY_ID` takes every operand, so only a data operand makes its word illegal (R61 (f), assumption 10). -/
theorem data_ne_nil_of_regById_error {w : Half} {d : List Byte} {e : DecodeError} (h : decode w d = .error e)
    (hop : w.extractLsb' 0 8 = 0x01#8) : d ≠ [] := by
  rintro rfl
  have hw : encode (.regById (sField w)) = (w, []) := by
    rw [encode, show OP_REG_BY_ID = opField w from hop.symm, commandWord_fields]
  exact nomatch h.symm.trans (decode_eq_ok.mpr ⟨hw, rfl⟩)

/-- Settles O53: a word that completes was run as the command it encodes, whose row of R161 is then read off constructor by constructor, or was
not decoded and answered `ILLEGAL_COMMAND`; the row of `REG_BY_ID` alone asks why. -/
theorem statusCodesPerCommand : Obligations.StatusCodesPerCommand := by
  refine ⟨⟨rfl, rfl, rfl, rfl, rfl, rfl, rfl, rfl, rfl⟩, fun s t w d h => ?_⟩
  cases hd : decode w d with
  | ok i =>
    obtain ⟨r, hr, hrow⟩ := exec_status ((issue_of_decode_ok hd s).symm.trans h)
    obtain ⟨rfl, rfl⟩ := Prod.mk.inj (decode_eq_ok.mp hd).1
    refine ⟨r, hr, ?_⟩
    cases i <;>
      simpa [encode, commandWord_low, statusAllowed, or_assoc, OP_NOP, OP_REG_BY_ID, OP_REG_BY_KIND, OP_MSG_PUSH, OP_MSG_POP, OP_CTL_INIT,
        OP_CTL_PROC, OP_RD_REG] using hrow
  | error e =>
    cases (issue_of_decode_error hd s).symm.trans h
    refine ⟨_, rfl, ?_⟩
    by_cases hop : w.extractLsb' 0 8 = 0x01#8
    · simp [hop, data_ne_nil_of_regById_error hd hop]
    · simp [hop]

end Sys2Proof.Machine
end

section
/-! PROOFS. Reset and the control side's writers (R190, R199): what power-on reset leaves, the invariant there, and which steps write the
configuration and the control state. -/

namespace Sys2Proof.Machine

/-! ## Who writes (R199) -/

/-- No step writes the configuration: the control commands keep the tag, and every other step keeps all of the control side with it. -/
theorem step_config {s t : State} (h : step s = .next t) : t.config = s.config := by
  by_cases hinit : nextIs .ctlInit s
  · obtain ⟨rest, hstep⟩ := step_of_nextIs hinit
    rw [exec_cases (hstep.symm.trans h)]
    rfl
  by_cases hproc : nextIs .ctlProc s
  · obtain ⟨rest, hstep⟩ := step_of_nextIs hproc
    obtain ⟨-, -, -, -, -, hconfig⟩ := ctlProc_frame (exec_ctlProc_next.mp (hstep.symm.trans h))
    exact hconfig
  · rw [step_frame_of_not_ctl h hinit hproc]

/-- Settles O47: `step_config`, and the frame of the steps that are not control commands. -/
theorem onlyCtlCommandsWriteControl : Obligations.OnlyCtlCommandsWriteControl := by
  refine fun s t h => ⟨step_config h, fun hinit hproc => ?frame⟩
  case frame =>
    rw [step_frame_of_not_ctl h hinit hproc]
    exact ⟨rfl, rfl, rfl, rfl, rfl, rfl, rfl, rfl⟩

/-! ## Power-on reset (R190) -/

@[simp] theorem State.resetOf_sched (c : ConfigId) : (State.resetOf c).sched = .uninitialized := rfl

@[simp] theorem State.resetOf_mbox (c : ConfigId) (k : Kind) :
    (State.resetOf c).mbox[k] = ⟨false, List.replicate (lenOf (State.resetOf c).params k) 0⟩ :=
  Vector.getElem_ofFn k.isLt

/-- Settles O54: the mailboxes by `State.resetOf_mbox`, every other register by the definition of the reset state. -/
theorem resetState : Obligations.ResetState :=
  fun c => ⟨rfl, rfl, rfl, rfl, fun k => by rw [State.resetOf_mbox], rfl, rfl⟩

/-- After reset the queues are empty and the mailboxes have their lengths; the other clauses ask for a `SCHED` that reset does not leave. -/
theorem inv_resetOf (c : ConfigId) : Inv (State.resetOf c) where
  rxFits := Nat.zero_le _
  txFits := Nat.zero_le _
  mailFits k := by rw [State.resetOf_mbox, List.length_replicate]
  bank h := absurd (State.resetOf_sched c) h
  outputs h := absurd (State.resetOf_sched c) h
  faultedZero := nofun
  runningFresh := nofun
  readyZero := nofun

/-- Settles O55: `State.reset` is the reset state of one block. -/
theorem invariantAtReset : Obligations.InvariantAtReset := ⟨inv_resetOf (.custom 0), inv_resetOf⟩

end Sys2Proof.Machine
end
